-- ==== Sys2Proof/Word.lean ====
section
/-!
DEFINITION. The two word types of the ya6s 65C02 cycle controller and the joins between them.
Byte values and addresses are bit vectors because the spec adds, masks and concatenates them (spec R9).
-/

namespace Sys2Proof

/-- An 8-bit value: a register, a latch, a byte of memory (spec R9). -/
abbrev Byte := BitVec 8

/-- A 16-bit value: the program counter or an address (spec R8, R20). -/
abbrev Word := BitVec 16

/-- `hi:lo`, the 16-bit value `hi*256 + lo` (spec R9). -/
def join (hi lo : Byte) : Word := hi ++ lo

/-- Bits 15 to 8 of a 16-bit value (spec R9, `v[15:8]`). -/
def hiByte (w : Word) : Byte := w.extractLsb' 8 8

/-- Bits 7 to 0 of a 16-bit value (spec R9, `v[7:0]`). -/
def loByte (w : Word) : Byte := w.extractLsb' 0 8

end Sys2Proof
end

