-- ==== Sys2Proof/Syntax.lean ====
section
/-!
DEFINITION. The instructions of the block: the mnemonics (spec R2, R135), the 46 addressing-mode cycle lists by name
(spec R103, R110 to R130), and `Instr`, one constructor per row of spec/opcode_table.json.
The block's decoder reads ONE byte, the opcode (spec R1, R138): operand bytes are fetched by the cycle list, over the bus,
while the instruction runs (spec R100). So an `Instr` carries no operands; `Insn` is an instruction with its operand bytes,
as it stands in a program.
-/

namespace Sys2Proof

/-- The mnemonics of the W65C02S set (spec R2, R135). RMB, SMB, BBR and BBS carry the bit index `opcode[6:4]` (spec R102).
`undefinedNop` is the `NOP*` of the 44 undefined opcodes (spec R131, R346). -/
inductive Mnemonic where
  | lda | ldx | ldy | sta | stx | sty | stz | tax | tay | txa | tya | txs | tsx | ora | and | eor | adc | sbc
  | cmp | cpx | cpy | bit | asl | lsr | rol | ror | inc | dec | inx | iny | dex | dey | tsb | trb | bpl | bmi
  | bvc | bvs | bcc | bcs | bne | beq | bra | jmp | jsr | rts | rti | brk | pha | phx | phy | php | pla | plx
  | ply | plp | clc | sec | cli | sei | cld | sed | clv | nop | undefinedNop | wai | stp
  | rmb (bit : Fin 8) | smb (bit : Fin 8) | bbr (bit : Fin 8) | bbs (bit : Fin 8)
  deriving DecidableEq, Repr

/-- The 46 cycle lists by name (spec R38, R135): each addressing mode with its read, write and read-modify-write variants,
the hand-built lists, and `intr`, the fixed interrupt-entry list (spec R127). -/
inductive ListName where
  | imp | imm | zpR | zpW | zpRmw | zpxR | zpyR | zpxW | zpyW | zpxRmw | absR | absW | absRmw | absxR | absyR
  | absxW | absyW | absxRmw | izxR | izxW | izyR | izyW | izpR | izpW | rel | zpRel | jmpAbs | jmpInd
  | jmpIax | jsr | rts | rti | brk | intr | push | php | pull | plp | wai | stp | nop1 | nopImm | nopZp
  | nopZpx | nopAbs | nop5c
  deriving DecidableEq, Repr

/-- The 256 instructions, one constructor per row of spec/opcode_table.json (spec R135), family by family in the order of
the spec's files 41 to 45. The name is the mnemonic and the operand form; `undXX` is the undefined opcode $XX (spec R131). -/
inductive Instr where
  | ldaIndX
  | ldaZp
  | ldaImm
  | ldaAbs
  | ldaIndY
  | ldaInd
  | ldaZpX
  | ldaAbsY
  | ldaAbsX
  | ldxImm
  | ldxZp
  | ldxAbs
  | ldxZpY
  | ldxAbsY
  | ldyImm
  | ldyZp
  | ldyAbs
  | ldyZpX
  | ldyAbsX
  | staIndX
  | staZp
  | staAbs
  | staIndY
  | staInd
  | staZpX
  | staAbsY
  | staAbsX
  | stxZp
  | stxAbs
  | stxZpY
  | styZp
  | styAbs
  | styZpX
  | stzZp
  | stzZpX
  | stzAbs
  | stzAbsX
  | tax
  | tay
  | txa
  | tya
  | txs
  | tsx
  | oraIndX
  | oraZp
  | oraImm
  | oraAbs
  | oraIndY
  | oraInd
  | oraZpX
  | oraAbsY
  | oraAbsX
  | andIndX
  | andZp
  | andImm
  | andAbs
  | andIndY
  | andInd
  | andZpX
  | andAbsY
  | andAbsX
  | eorIndX
  | eorZp
  | eorImm
  | eorAbs
  | eorIndY
  | eorInd
  | eorZpX
  | eorAbsY
  | eorAbsX
  | adcIndX
  | adcZp
  | adcImm
  | adcAbs
  | adcIndY
  | adcInd
  | adcZpX
  | adcAbsY
  | adcAbsX
  | sbcIndX
  | sbcZp
  | sbcImm
  | sbcAbs
  | sbcIndY
  | sbcInd
  | sbcZpX
  | sbcAbsY
  | sbcAbsX
  | cmpIndX
  | cmpZp
  | cmpImm
  | cmpAbs
  | cmpIndY
  | cmpInd
  | cmpZpX
  | cmpAbsY
  | cmpAbsX
  | cpxImm
  | cpxZp
  | cpxAbs
  | cpyImm
  | cpyZp
  | cpyAbs
  | bitZp
  | bitAbs
  | bitZpX
  | bitAbsX
  | bitImm
  | aslZp
  | aslA
  | aslAbs
  | aslZpX
  | aslAbsX
  | lsrZp
  | lsrA
  | lsrAbs
  | lsrZpX
  | lsrAbsX
  | rolZp
  | rolA
  | rolAbs
  | rolZpX
  | rolAbsX
  | rorZp
  | rorA
  | rorAbs
  | rorZpX
  | rorAbsX
  | incA
  | incZp
  | incAbs
  | incZpX
  | incAbsX
  | decA
  | decZp
  | decAbs
  | decZpX
  | decAbsX
  | inx
  | iny
  | dex
  | dey
  | tsbZp
  | tsbAbs
  | trbZp
  | trbAbs
  | rmb0
  | rmb1
  | rmb2
  | rmb3
  | rmb4
  | rmb5
  | rmb6
  | rmb7
  | smb0
  | smb1
  | smb2
  | smb3
  | smb4
  | smb5
  | smb6
  | smb7
  | bpl
  | bmi
  | bvc
  | bvs
  | bcc
  | bcs
  | bne
  | beq
  | bra
  | bbr0
  | bbr1
  | bbr2
  | bbr3
  | bbr4
  | bbr5
  | bbr6
  | bbr7
  | bbs0
  | bbs1
  | bbs2
  | bbs3
  | bbs4
  | bbs5
  | bbs6
  | bbs7
  | jmpAbs
  | jmpInd
  | jmpIndX
  | jsr
  | rts
  | rti
  | brk
  | pha
  | phx
  | phy
  | php
  | pla
  | plx
  | ply
  | plp
  | clc
  | sec
  | cli
  | sei
  | cld
  | sed
  | clv
  | nop
  | und02
  | und03
  | und0B
  | und13
  | und1B
  | und22
  | und23
  | und2B
  | und33
  | und3B
  | und42
  | und43
  | und44
  | und4B
  | und53
  | und54
  | und5B
  | und5C
  | und62
  | und63
  | und6B
  | und73
  | und7B
  | und82
  | und83
  | und8B
  | und93
  | und9B
  | undA3
  | undAB
  | undB3
  | undBB
  | undC2
  | undC3
  | undD3
  | undD4
  | undDC
  | undE2
  | undE3
  | undEB
  | undF3
  | undF4
  | undFB
  | undFC
  | wai
  | stp
  deriving DecidableEq, Repr

/-- An instruction as it stands in memory: its opcode's instruction and the operand bytes after it, in address order
(spec R100, R101). -/
structure Insn where
  instr : Instr
  operands : List Byte
  deriving DecidableEq, Repr

end Sys2Proof
end

