-- ==== Sys2Proof/Decode.lean ====
section
/-!
DEFINITION. The opcode decoder and the encoder: the 256-entry matrix of spec R135, its construction from the systematic
rule and the override list (R132 to R134), and the byte forms of whole instructions (R100, R101).
-/

namespace Sys2Proof

/-! ### The opcode matrix (spec R135) -/

/-- Row `hi` of the matrix: the instructions of opcodes $hi0 to $hiF, in order (spec R135). -/
def matrixRow (hi : Nat) : List Instr :=
  match hi with
  | 0 => [.brk, .oraIndX, .und02, .und03, .tsbZp, .oraZp, .aslZp, .rmb0,
      .php, .oraImm, .aslA, .und0B, .tsbAbs, .oraAbs, .aslAbs, .bbr0]
  | 1 => [.bpl, .oraIndY, .oraInd, .und13, .trbZp, .oraZpX, .aslZpX, .rmb1,
      .clc, .oraAbsY, .incA, .und1B, .trbAbs, .oraAbsX, .aslAbsX, .bbr1]
  | 2 => [.jsr, .andIndX, .und22, .und23, .bitZp, .andZp, .rolZp, .rmb2,
      .plp, .andImm, .rolA, .und2B, .bitAbs, .andAbs, .rolAbs, .bbr2]
  | 3 => [.bmi, .andIndY, .andInd, .und33, .bitZpX, .andZpX, .rolZpX, .rmb3,
      .sec, .andAbsY, .decA, .und3B, .bitAbsX, .andAbsX, .rolAbsX, .bbr3]
  | 4 => [.rti, .eorIndX, .und42, .und43, .und44, .eorZp, .lsrZp, .rmb4,
      .pha, .eorImm, .lsrA, .und4B, .jmpAbs, .eorAbs, .lsrAbs, .bbr4]
  | 5 => [.bvc, .eorIndY, .eorInd, .und53, .und54, .eorZpX, .lsrZpX, .rmb5,
      .cli, .eorAbsY, .phy, .und5B, .und5C, .eorAbsX, .lsrAbsX, .bbr5]
  | 6 => [.rts, .adcIndX, .und62, .und63, .stzZp, .adcZp, .rorZp, .rmb6,
      .pla, .adcImm, .rorA, .und6B, .jmpInd, .adcAbs, .rorAbs, .bbr6]
  | 7 => [.bvs, .adcIndY, .adcInd, .und73, .stzZpX, .adcZpX, .rorZpX, .rmb7,
      .sei, .adcAbsY, .ply, .und7B, .jmpIndX, .adcAbsX, .rorAbsX, .bbr7]
  | 8 => [.bra, .staIndX, .und82, .und83, .styZp, .staZp, .stxZp, .smb0,
      .dey, .bitImm, .txa, .und8B, .styAbs, .staAbs, .stxAbs, .bbs0]
  | 9 => [.bcc, .staIndY, .staInd, .und93, .styZpX, .staZpX, .stxZpY, .smb1,
      .tya, .staAbsY, .txs, .und9B, .stzAbs, .staAbsX, .stzAbsX, .bbs1]
  | 10 => [.ldyImm, .ldaIndX, .ldxImm, .undA3, .ldyZp, .ldaZp, .ldxZp, .smb2,
      .tay, .ldaImm, .tax, .undAB, .ldyAbs, .ldaAbs, .ldxAbs, .bbs2]
  | 11 => [.bcs, .ldaIndY, .ldaInd, .undB3, .ldyZpX, .ldaZpX, .ldxZpY, .smb3,
      .clv, .ldaAbsY, .tsx, .undBB, .ldyAbsX, .ldaAbsX, .ldxAbsY, .bbs3]
  | 12 => [.cpyImm, .cmpIndX, .undC2, .undC3, .cpyZp, .cmpZp, .decZp, .smb4,
      .iny, .cmpImm, .dex, .wai, .cpyAbs, .cmpAbs, .decAbs, .bbs4]
  | 13 => [.bne, .cmpIndY, .cmpInd, .undD3, .undD4, .cmpZpX, .decZpX, .smb5,
      .cld, .cmpAbsY, .phx, .stp, .undDC, .cmpAbsX, .decAbsX, .bbs5]
  | 14 => [.cpxImm, .sbcIndX, .undE2, .undE3, .cpxZp, .sbcZp, .incZp, .smb6,
      .inx, .sbcImm, .nop, .undEB, .cpxAbs, .sbcAbs, .incAbs, .bbs6]
  | _ => [.beq, .sbcIndY, .sbcInd, .undF3, .undF4, .sbcZpX, .incZpX, .smb7,
      .sed, .sbcAbsY, .plx, .undFB, .undFC, .sbcAbsX, .incAbsX, .bbs7]

/-- The instruction an opcode byte names (spec R135). Every one of the 256 values names one (spec R137), so no opcode is
refused, and no mode bit changes the reading. -/
def decodeOpcode (opcode : Byte) : Instr :=
  (matrixRow (opcode.toNat / 16)).getD (opcode.toNat % 16) .brk

/-! ### The encoder, mnemonic and cycle list of each instruction -/

/-- The opcode byte of an instruction (spec R135). -/
def Instr.opcode (i : Instr) : Byte :=
  match i with
  | .ldaIndX => 0xA1#8
  | .ldaZp => 0xA5#8
  | .ldaImm => 0xA9#8
  | .ldaAbs => 0xAD#8
  | .ldaIndY => 0xB1#8
  | .ldaInd => 0xB2#8
  | .ldaZpX => 0xB5#8
  | .ldaAbsY => 0xB9#8
  | .ldaAbsX => 0xBD#8
  | .ldxImm => 0xA2#8
  | .ldxZp => 0xA6#8
  | .ldxAbs => 0xAE#8
  | .ldxZpY => 0xB6#8
  | .ldxAbsY => 0xBE#8
  | .ldyImm => 0xA0#8
  | .ldyZp => 0xA4#8
  | .ldyAbs => 0xAC#8
  | .ldyZpX => 0xB4#8
  | .ldyAbsX => 0xBC#8
  | .staIndX => 0x81#8
  | .staZp => 0x85#8
  | .staAbs => 0x8D#8
  | .staIndY => 0x91#8
  | .staInd => 0x92#8
  | .staZpX => 0x95#8
  | .staAbsY => 0x99#8
  | .staAbsX => 0x9D#8
  | .stxZp => 0x86#8
  | .stxAbs => 0x8E#8
  | .stxZpY => 0x96#8
  | .styZp => 0x84#8
  | .styAbs => 0x8C#8
  | .styZpX => 0x94#8
  | .stzZp => 0x64#8
  | .stzZpX => 0x74#8
  | .stzAbs => 0x9C#8
  | .stzAbsX => 0x9E#8
  | .tax => 0xAA#8
  | .tay => 0xA8#8
  | .txa => 0x8A#8
  | .tya => 0x98#8
  | .txs => 0x9A#8
  | .tsx => 0xBA#8
  | .oraIndX => 0x01#8
  | .oraZp => 0x05#8
  | .oraImm => 0x09#8
  | .oraAbs => 0x0D#8
  | .oraIndY => 0x11#8
  | .oraInd => 0x12#8
  | .oraZpX => 0x15#8
  | .oraAbsY => 0x19#8
  | .oraAbsX => 0x1D#8
  | .andIndX => 0x21#8
  | .andZp => 0x25#8
  | .andImm => 0x29#8
  | .andAbs => 0x2D#8
  | .andIndY => 0x31#8
  | .andInd => 0x32#8
  | .andZpX => 0x35#8
  | .andAbsY => 0x39#8
  | .andAbsX => 0x3D#8
  | .eorIndX => 0x41#8
  | .eorZp => 0x45#8
  | .eorImm => 0x49#8
  | .eorAbs => 0x4D#8
  | .eorIndY => 0x51#8
  | .eorInd => 0x52#8
  | .eorZpX => 0x55#8
  | .eorAbsY => 0x59#8
  | .eorAbsX => 0x5D#8
  | .adcIndX => 0x61#8
  | .adcZp => 0x65#8
  | .adcImm => 0x69#8
  | .adcAbs => 0x6D#8
  | .adcIndY => 0x71#8
  | .adcInd => 0x72#8
  | .adcZpX => 0x75#8
  | .adcAbsY => 0x79#8
  | .adcAbsX => 0x7D#8
  | .sbcIndX => 0xE1#8
  | .sbcZp => 0xE5#8
  | .sbcImm => 0xE9#8
  | .sbcAbs => 0xED#8
  | .sbcIndY => 0xF1#8
  | .sbcInd => 0xF2#8
  | .sbcZpX => 0xF5#8
  | .sbcAbsY => 0xF9#8
  | .sbcAbsX => 0xFD#8
  | .cmpIndX => 0xC1#8
  | .cmpZp => 0xC5#8
  | .cmpImm => 0xC9#8
  | .cmpAbs => 0xCD#8
  | .cmpIndY => 0xD1#8
  | .cmpInd => 0xD2#8
  | .cmpZpX => 0xD5#8
  | .cmpAbsY => 0xD9#8
  | .cmpAbsX => 0xDD#8
  | .cpxImm => 0xE0#8
  | .cpxZp => 0xE4#8
  | .cpxAbs => 0xEC#8
  | .cpyImm => 0xC0#8
  | .cpyZp => 0xC4#8
  | .cpyAbs => 0xCC#8
  | .bitZp => 0x24#8
  | .bitAbs => 0x2C#8
  | .bitZpX => 0x34#8
  | .bitAbsX => 0x3C#8
  | .bitImm => 0x89#8
  | .aslZp => 0x06#8
  | .aslA => 0x0A#8
  | .aslAbs => 0x0E#8
  | .aslZpX => 0x16#8
  | .aslAbsX => 0x1E#8
  | .lsrZp => 0x46#8
  | .lsrA => 0x4A#8
  | .lsrAbs => 0x4E#8
  | .lsrZpX => 0x56#8
  | .lsrAbsX => 0x5E#8
  | .rolZp => 0x26#8
  | .rolA => 0x2A#8
  | .rolAbs => 0x2E#8
  | .rolZpX => 0x36#8
  | .rolAbsX => 0x3E#8
  | .rorZp => 0x66#8
  | .rorA => 0x6A#8
  | .rorAbs => 0x6E#8
  | .rorZpX => 0x76#8
  | .rorAbsX => 0x7E#8
  | .incA => 0x1A#8
  | .incZp => 0xE6#8
  | .incAbs => 0xEE#8
  | .incZpX => 0xF6#8
  | .incAbsX => 0xFE#8
  | .decA => 0x3A#8
  | .decZp => 0xC6#8
  | .decAbs => 0xCE#8
  | .decZpX => 0xD6#8
  | .decAbsX => 0xDE#8
  | .inx => 0xE8#8
  | .iny => 0xC8#8
  | .dex => 0xCA#8
  | .dey => 0x88#8
  | .tsbZp => 0x04#8
  | .tsbAbs => 0x0C#8
  | .trbZp => 0x14#8
  | .trbAbs => 0x1C#8
  | .rmb0 => 0x07#8
  | .rmb1 => 0x17#8
  | .rmb2 => 0x27#8
  | .rmb3 => 0x37#8
  | .rmb4 => 0x47#8
  | .rmb5 => 0x57#8
  | .rmb6 => 0x67#8
  | .rmb7 => 0x77#8
  | .smb0 => 0x87#8
  | .smb1 => 0x97#8
  | .smb2 => 0xA7#8
  | .smb3 => 0xB7#8
  | .smb4 => 0xC7#8
  | .smb5 => 0xD7#8
  | .smb6 => 0xE7#8
  | .smb7 => 0xF7#8
  | .bpl => 0x10#8
  | .bmi => 0x30#8
  | .bvc => 0x50#8
  | .bvs => 0x70#8
  | .bcc => 0x90#8
  | .bcs => 0xB0#8
  | .bne => 0xD0#8
  | .beq => 0xF0#8
  | .bra => 0x80#8
  | .bbr0 => 0x0F#8
  | .bbr1 => 0x1F#8
  | .bbr2 => 0x2F#8
  | .bbr3 => 0x3F#8
  | .bbr4 => 0x4F#8
  | .bbr5 => 0x5F#8
  | .bbr6 => 0x6F#8
  | .bbr7 => 0x7F#8
  | .bbs0 => 0x8F#8
  | .bbs1 => 0x9F#8
  | .bbs2 => 0xAF#8
  | .bbs3 => 0xBF#8
  | .bbs4 => 0xCF#8
  | .bbs5 => 0xDF#8
  | .bbs6 => 0xEF#8
  | .bbs7 => 0xFF#8
  | .jmpAbs => 0x4C#8
  | .jmpInd => 0x6C#8
  | .jmpIndX => 0x7C#8
  | .jsr => 0x20#8
  | .rts => 0x60#8
  | .rti => 0x40#8
  | .brk => 0x00#8
  | .pha => 0x48#8
  | .phx => 0xDA#8
  | .phy => 0x5A#8
  | .php => 0x08#8
  | .pla => 0x68#8
  | .plx => 0xFA#8
  | .ply => 0x7A#8
  | .plp => 0x28#8
  | .clc => 0x18#8
  | .sec => 0x38#8
  | .cli => 0x58#8
  | .sei => 0x78#8
  | .cld => 0xD8#8
  | .sed => 0xF8#8
  | .clv => 0xB8#8
  | .nop => 0xEA#8
  | .und02 => 0x02#8
  | .und03 => 0x03#8
  | .und0B => 0x0B#8
  | .und13 => 0x13#8
  | .und1B => 0x1B#8
  | .und22 => 0x22#8
  | .und23 => 0x23#8
  | .und2B => 0x2B#8
  | .und33 => 0x33#8
  | .und3B => 0x3B#8
  | .und42 => 0x42#8
  | .und43 => 0x43#8
  | .und44 => 0x44#8
  | .und4B => 0x4B#8
  | .und53 => 0x53#8
  | .und54 => 0x54#8
  | .und5B => 0x5B#8
  | .und5C => 0x5C#8
  | .und62 => 0x62#8
  | .und63 => 0x63#8
  | .und6B => 0x6B#8
  | .und73 => 0x73#8
  | .und7B => 0x7B#8
  | .und82 => 0x82#8
  | .und83 => 0x83#8
  | .und8B => 0x8B#8
  | .und93 => 0x93#8
  | .und9B => 0x9B#8
  | .undA3 => 0xA3#8
  | .undAB => 0xAB#8
  | .undB3 => 0xB3#8
  | .undBB => 0xBB#8
  | .undC2 => 0xC2#8
  | .undC3 => 0xC3#8
  | .undD3 => 0xD3#8
  | .undD4 => 0xD4#8
  | .undDC => 0xDC#8
  | .undE2 => 0xE2#8
  | .undE3 => 0xE3#8
  | .undEB => 0xEB#8
  | .undF3 => 0xF3#8
  | .undF4 => 0xF4#8
  | .undFB => 0xFB#8
  | .undFC => 0xFC#8
  | .wai => 0xCB#8
  | .stp => 0xDB#8

/-- The mnemonic of an instruction (spec R135). -/
def Instr.mnemonic (i : Instr) : Mnemonic :=
  match i with
  | .ldaIndX => .lda
  | .ldaZp => .lda
  | .ldaImm => .lda
  | .ldaAbs => .lda
  | .ldaIndY => .lda
  | .ldaInd => .lda
  | .ldaZpX => .lda
  | .ldaAbsY => .lda
  | .ldaAbsX => .lda
  | .ldxImm => .ldx
  | .ldxZp => .ldx
  | .ldxAbs => .ldx
  | .ldxZpY => .ldx
  | .ldxAbsY => .ldx
  | .ldyImm => .ldy
  | .ldyZp => .ldy
  | .ldyAbs => .ldy
  | .ldyZpX => .ldy
  | .ldyAbsX => .ldy
  | .staIndX => .sta
  | .staZp => .sta
  | .staAbs => .sta
  | .staIndY => .sta
  | .staInd => .sta
  | .staZpX => .sta
  | .staAbsY => .sta
  | .staAbsX => .sta
  | .stxZp => .stx
  | .stxAbs => .stx
  | .stxZpY => .stx
  | .styZp => .sty
  | .styAbs => .sty
  | .styZpX => .sty
  | .stzZp => .stz
  | .stzZpX => .stz
  | .stzAbs => .stz
  | .stzAbsX => .stz
  | .tax => .tax
  | .tay => .tay
  | .txa => .txa
  | .tya => .tya
  | .txs => .txs
  | .tsx => .tsx
  | .oraIndX => .ora
  | .oraZp => .ora
  | .oraImm => .ora
  | .oraAbs => .ora
  | .oraIndY => .ora
  | .oraInd => .ora
  | .oraZpX => .ora
  | .oraAbsY => .ora
  | .oraAbsX => .ora
  | .andIndX => .and
  | .andZp => .and
  | .andImm => .and
  | .andAbs => .and
  | .andIndY => .and
  | .andInd => .and
  | .andZpX => .and
  | .andAbsY => .and
  | .andAbsX => .and
  | .eorIndX => .eor
  | .eorZp => .eor
  | .eorImm => .eor
  | .eorAbs => .eor
  | .eorIndY => .eor
  | .eorInd => .eor
  | .eorZpX => .eor
  | .eorAbsY => .eor
  | .eorAbsX => .eor
  | .adcIndX => .adc
  | .adcZp => .adc
  | .adcImm => .adc
  | .adcAbs => .adc
  | .adcIndY => .adc
  | .adcInd => .adc
  | .adcZpX => .adc
  | .adcAbsY => .adc
  | .adcAbsX => .adc
  | .sbcIndX => .sbc
  | .sbcZp => .sbc
  | .sbcImm => .sbc
  | .sbcAbs => .sbc
  | .sbcIndY => .sbc
  | .sbcInd => .sbc
  | .sbcZpX => .sbc
  | .sbcAbsY => .sbc
  | .sbcAbsX => .sbc
  | .cmpIndX => .cmp
  | .cmpZp => .cmp
  | .cmpImm => .cmp
  | .cmpAbs => .cmp
  | .cmpIndY => .cmp
  | .cmpInd => .cmp
  | .cmpZpX => .cmp
  | .cmpAbsY => .cmp
  | .cmpAbsX => .cmp
  | .cpxImm => .cpx
  | .cpxZp => .cpx
  | .cpxAbs => .cpx
  | .cpyImm => .cpy
  | .cpyZp => .cpy
  | .cpyAbs => .cpy
  | .bitZp => .bit
  | .bitAbs => .bit
  | .bitZpX => .bit
  | .bitAbsX => .bit
  | .bitImm => .bit
  | .aslZp => .asl
  | .aslA => .asl
  | .aslAbs => .asl
  | .aslZpX => .asl
  | .aslAbsX => .asl
  | .lsrZp => .lsr
  | .lsrA => .lsr
  | .lsrAbs => .lsr
  | .lsrZpX => .lsr
  | .lsrAbsX => .lsr
  | .rolZp => .rol
  | .rolA => .rol
  | .rolAbs => .rol
  | .rolZpX => .rol
  | .rolAbsX => .rol
  | .rorZp => .ror
  | .rorA => .ror
  | .rorAbs => .ror
  | .rorZpX => .ror
  | .rorAbsX => .ror
  | .incA => .inc
  | .incZp => .inc
  | .incAbs => .inc
  | .incZpX => .inc
  | .incAbsX => .inc
  | .decA => .dec
  | .decZp => .dec
  | .decAbs => .dec
  | .decZpX => .dec
  | .decAbsX => .dec
  | .inx => .inx
  | .iny => .iny
  | .dex => .dex
  | .dey => .dey
  | .tsbZp => .tsb
  | .tsbAbs => .tsb
  | .trbZp => .trb
  | .trbAbs => .trb
  | .rmb0 => .rmb 0
  | .rmb1 => .rmb 1
  | .rmb2 => .rmb 2
  | .rmb3 => .rmb 3
  | .rmb4 => .rmb 4
  | .rmb5 => .rmb 5
  | .rmb6 => .rmb 6
  | .rmb7 => .rmb 7
  | .smb0 => .smb 0
  | .smb1 => .smb 1
  | .smb2 => .smb 2
  | .smb3 => .smb 3
  | .smb4 => .smb 4
  | .smb5 => .smb 5
  | .smb6 => .smb 6
  | .smb7 => .smb 7
  | .bpl => .bpl
  | .bmi => .bmi
  | .bvc => .bvc
  | .bvs => .bvs
  | .bcc => .bcc
  | .bcs => .bcs
  | .bne => .bne
  | .beq => .beq
  | .bra => .bra
  | .bbr0 => .bbr 0
  | .bbr1 => .bbr 1
  | .bbr2 => .bbr 2
  | .bbr3 => .bbr 3
  | .bbr4 => .bbr 4
  | .bbr5 => .bbr 5
  | .bbr6 => .bbr 6
  | .bbr7 => .bbr 7
  | .bbs0 => .bbs 0
  | .bbs1 => .bbs 1
  | .bbs2 => .bbs 2
  | .bbs3 => .bbs 3
  | .bbs4 => .bbs 4
  | .bbs5 => .bbs 5
  | .bbs6 => .bbs 6
  | .bbs7 => .bbs 7
  | .jmpAbs => .jmp
  | .jmpInd => .jmp
  | .jmpIndX => .jmp
  | .jsr => .jsr
  | .rts => .rts
  | .rti => .rti
  | .brk => .brk
  | .pha => .pha
  | .phx => .phx
  | .phy => .phy
  | .php => .php
  | .pla => .pla
  | .plx => .plx
  | .ply => .ply
  | .plp => .plp
  | .clc => .clc
  | .sec => .sec
  | .cli => .cli
  | .sei => .sei
  | .cld => .cld
  | .sed => .sed
  | .clv => .clv
  | .nop => .nop
  | .und02 => .undefinedNop
  | .und03 => .undefinedNop
  | .und0B => .undefinedNop
  | .und13 => .undefinedNop
  | .und1B => .undefinedNop
  | .und22 => .undefinedNop
  | .und23 => .undefinedNop
  | .und2B => .undefinedNop
  | .und33 => .undefinedNop
  | .und3B => .undefinedNop
  | .und42 => .undefinedNop
  | .und43 => .undefinedNop
  | .und44 => .undefinedNop
  | .und4B => .undefinedNop
  | .und53 => .undefinedNop
  | .und54 => .undefinedNop
  | .und5B => .undefinedNop
  | .und5C => .undefinedNop
  | .und62 => .undefinedNop
  | .und63 => .undefinedNop
  | .und6B => .undefinedNop
  | .und73 => .undefinedNop
  | .und7B => .undefinedNop
  | .und82 => .undefinedNop
  | .und83 => .undefinedNop
  | .und8B => .undefinedNop
  | .und93 => .undefinedNop
  | .und9B => .undefinedNop
  | .undA3 => .undefinedNop
  | .undAB => .undefinedNop
  | .undB3 => .undefinedNop
  | .undBB => .undefinedNop
  | .undC2 => .undefinedNop
  | .undC3 => .undefinedNop
  | .undD3 => .undefinedNop
  | .undD4 => .undefinedNop
  | .undDC => .undefinedNop
  | .undE2 => .undefinedNop
  | .undE3 => .undefinedNop
  | .undEB => .undefinedNop
  | .undF3 => .undefinedNop
  | .undF4 => .undefinedNop
  | .undFB => .undefinedNop
  | .undFC => .undefinedNop
  | .wai => .wai
  | .stp => .stp

/-- The cycle list of an instruction: `list_of(IR)` (spec R135, R168). -/
def Instr.list (i : Instr) : ListName :=
  match i with
  | .ldaIndX => .izxR
  | .ldaZp => .zpR
  | .ldaImm => .imm
  | .ldaAbs => .absR
  | .ldaIndY => .izyR
  | .ldaInd => .izpR
  | .ldaZpX => .zpxR
  | .ldaAbsY => .absyR
  | .ldaAbsX => .absxR
  | .ldxImm => .imm
  | .ldxZp => .zpR
  | .ldxAbs => .absR
  | .ldxZpY => .zpyR
  | .ldxAbsY => .absyR
  | .ldyImm => .imm
  | .ldyZp => .zpR
  | .ldyAbs => .absR
  | .ldyZpX => .zpxR
  | .ldyAbsX => .absxR
  | .staIndX => .izxW
  | .staZp => .zpW
  | .staAbs => .absW
  | .staIndY => .izyW
  | .staInd => .izpW
  | .staZpX => .zpxW
  | .staAbsY => .absyW
  | .staAbsX => .absxW
  | .stxZp => .zpW
  | .stxAbs => .absW
  | .stxZpY => .zpyW
  | .styZp => .zpW
  | .styAbs => .absW
  | .styZpX => .zpxW
  | .stzZp => .zpW
  | .stzZpX => .zpxW
  | .stzAbs => .absW
  | .stzAbsX => .absxW
  | .tax => .imp
  | .tay => .imp
  | .txa => .imp
  | .tya => .imp
  | .txs => .imp
  | .tsx => .imp
  | .oraIndX => .izxR
  | .oraZp => .zpR
  | .oraImm => .imm
  | .oraAbs => .absR
  | .oraIndY => .izyR
  | .oraInd => .izpR
  | .oraZpX => .zpxR
  | .oraAbsY => .absyR
  | .oraAbsX => .absxR
  | .andIndX => .izxR
  | .andZp => .zpR
  | .andImm => .imm
  | .andAbs => .absR
  | .andIndY => .izyR
  | .andInd => .izpR
  | .andZpX => .zpxR
  | .andAbsY => .absyR
  | .andAbsX => .absxR
  | .eorIndX => .izxR
  | .eorZp => .zpR
  | .eorImm => .imm
  | .eorAbs => .absR
  | .eorIndY => .izyR
  | .eorInd => .izpR
  | .eorZpX => .zpxR
  | .eorAbsY => .absyR
  | .eorAbsX => .absxR
  | .adcIndX => .izxR
  | .adcZp => .zpR
  | .adcImm => .imm
  | .adcAbs => .absR
  | .adcIndY => .izyR
  | .adcInd => .izpR
  | .adcZpX => .zpxR
  | .adcAbsY => .absyR
  | .adcAbsX => .absxR
  | .sbcIndX => .izxR
  | .sbcZp => .zpR
  | .sbcImm => .imm
  | .sbcAbs => .absR
  | .sbcIndY => .izyR
  | .sbcInd => .izpR
  | .sbcZpX => .zpxR
  | .sbcAbsY => .absyR
  | .sbcAbsX => .absxR
  | .cmpIndX => .izxR
  | .cmpZp => .zpR
  | .cmpImm => .imm
  | .cmpAbs => .absR
  | .cmpIndY => .izyR
  | .cmpInd => .izpR
  | .cmpZpX => .zpxR
  | .cmpAbsY => .absyR
  | .cmpAbsX => .absxR
  | .cpxImm => .imm
  | .cpxZp => .zpR
  | .cpxAbs => .absR
  | .cpyImm => .imm
  | .cpyZp => .zpR
  | .cpyAbs => .absR
  | .bitZp => .zpR
  | .bitAbs => .absR
  | .bitZpX => .zpxR
  | .bitAbsX => .absxR
  | .bitImm => .imm
  | .aslZp => .zpRmw
  | .aslA => .imp
  | .aslAbs => .absRmw
  | .aslZpX => .zpxRmw
  | .aslAbsX => .absxRmw
  | .lsrZp => .zpRmw
  | .lsrA => .imp
  | .lsrAbs => .absRmw
  | .lsrZpX => .zpxRmw
  | .lsrAbsX => .absxRmw
  | .rolZp => .zpRmw
  | .rolA => .imp
  | .rolAbs => .absRmw
  | .rolZpX => .zpxRmw
  | .rolAbsX => .absxRmw
  | .rorZp => .zpRmw
  | .rorA => .imp
  | .rorAbs => .absRmw
  | .rorZpX => .zpxRmw
  | .rorAbsX => .absxRmw
  | .incA => .imp
  | .incZp => .zpRmw
  | .incAbs => .absRmw
  | .incZpX => .zpxRmw
  | .incAbsX => .absxRmw
  | .decA => .imp
  | .decZp => .zpRmw
  | .decAbs => .absRmw
  | .decZpX => .zpxRmw
  | .decAbsX => .absxRmw
  | .inx => .imp
  | .iny => .imp
  | .dex => .imp
  | .dey => .imp
  | .tsbZp => .zpRmw
  | .tsbAbs => .absRmw
  | .trbZp => .zpRmw
  | .trbAbs => .absRmw
  | .rmb0 => .zpRmw
  | .rmb1 => .zpRmw
  | .rmb2 => .zpRmw
  | .rmb3 => .zpRmw
  | .rmb4 => .zpRmw
  | .rmb5 => .zpRmw
  | .rmb6 => .zpRmw
  | .rmb7 => .zpRmw
  | .smb0 => .zpRmw
  | .smb1 => .zpRmw
  | .smb2 => .zpRmw
  | .smb3 => .zpRmw
  | .smb4 => .zpRmw
  | .smb5 => .zpRmw
  | .smb6 => .zpRmw
  | .smb7 => .zpRmw
  | .bpl => .rel
  | .bmi => .rel
  | .bvc => .rel
  | .bvs => .rel
  | .bcc => .rel
  | .bcs => .rel
  | .bne => .rel
  | .beq => .rel
  | .bra => .rel
  | .bbr0 => .zpRel
  | .bbr1 => .zpRel
  | .bbr2 => .zpRel
  | .bbr3 => .zpRel
  | .bbr4 => .zpRel
  | .bbr5 => .zpRel
  | .bbr6 => .zpRel
  | .bbr7 => .zpRel
  | .bbs0 => .zpRel
  | .bbs1 => .zpRel
  | .bbs2 => .zpRel
  | .bbs3 => .zpRel
  | .bbs4 => .zpRel
  | .bbs5 => .zpRel
  | .bbs6 => .zpRel
  | .bbs7 => .zpRel
  | .jmpAbs => .jmpAbs
  | .jmpInd => .jmpInd
  | .jmpIndX => .jmpIax
  | .jsr => .jsr
  | .rts => .rts
  | .rti => .rti
  | .brk => .brk
  | .pha => .push
  | .phx => .push
  | .phy => .push
  | .php => .php
  | .pla => .pull
  | .plx => .pull
  | .ply => .pull
  | .plp => .plp
  | .clc => .imp
  | .sec => .imp
  | .cli => .imp
  | .sei => .imp
  | .cld => .imp
  | .sed => .imp
  | .clv => .imp
  | .nop => .imp
  | .und02 => .nopImm
  | .und03 => .nop1
  | .und0B => .nop1
  | .und13 => .nop1
  | .und1B => .nop1
  | .und22 => .nopImm
  | .und23 => .nop1
  | .und2B => .nop1
  | .und33 => .nop1
  | .und3B => .nop1
  | .und42 => .nopImm
  | .und43 => .nop1
  | .und44 => .nopZp
  | .und4B => .nop1
  | .und53 => .nop1
  | .und54 => .nopZpx
  | .und5B => .nop1
  | .und5C => .nop5c
  | .und62 => .nopImm
  | .und63 => .nop1
  | .und6B => .nop1
  | .und73 => .nop1
  | .und7B => .nop1
  | .und82 => .nopImm
  | .und83 => .nop1
  | .und8B => .nop1
  | .und93 => .nop1
  | .und9B => .nop1
  | .undA3 => .nop1
  | .undAB => .nop1
  | .undB3 => .nop1
  | .undBB => .nop1
  | .undC2 => .nopImm
  | .undC3 => .nop1
  | .undD3 => .nop1
  | .undD4 => .nopZpx
  | .undDC => .nopAbs
  | .undE2 => .nopImm
  | .undE3 => .nop1
  | .undEB => .nop1
  | .undF3 => .nop1
  | .undF4 => .nopZpx
  | .undFB => .nop1
  | .undFC => .nopAbs
  | .wai => .wai
  | .stp => .stp

/-- The number of operand bytes of each cycle list's format (spec R100); `intr` is no instruction's list. -/
def ListName.operandCount (l : ListName) : Nat :=
  match l with
  | .imp | .rts | .rti | .push | .php | .pull | .plp | .wai | .stp | .nop1 | .intr => 0
  | .imm | .nopImm | .zpR | .zpW | .zpRmw | .zpxR | .zpyR | .zpxW | .zpyW | .zpxRmw | .izxR | .izxW | .izyR | .izyW
  | .izpR | .izpW | .nopZp | .nopZpx | .rel | .brk => 1
  | .absR | .absW | .absRmw | .absxR | .absyR | .absxW | .absyW | .absxRmw | .jmpAbs | .jmpInd | .jmpIax | .jsr
  | .nopAbs | .nop5c | .zpRel => 2

/-- How many operand bytes follow an instruction's opcode: what its format says (spec R100; log entry 18). -/
def Instr.operandCount (i : Instr) : Nat := i.list.operandCount

/-- The length of an instruction in bytes, "by the format of the opcode's list" (spec R100, R138). DESIGN CHOICE (log entry 18): R138 also
calls it the number of `PC_INC` cycles in the list, which the lists of JMP_ABS and JSR (R125, R126) contradict: each has two, and the format
and R135 give three bytes. The model follows the format. -/
def Instr.length (i : Instr) : Nat := 1 + i.operandCount


/-! ### The construction of the matrix (spec R102, R132 to R134) -/

/-- Group 1, `cc = 01`: the operation named by `aaa` (spec R132). -/
def group1Op (aaa : Nat) : Mnemonic :=
  match aaa with
  | 0 => .ora | 1 => .and | 2 => .eor | 3 => .adc | 4 => .sta | 5 => .lda | 6 => .cmp | _ => .sbc

/-- Group 1: the list named by `bbb`; STA (`aaa = 4`) takes the W lists, the others the R lists (spec R132). -/
def group1List (aaa bbb : Nat) : ListName :=
  match bbb, aaa with
  | 0, 4 => .izxW | 0, _ => .izxR
  | 1, 4 => .zpW | 1, _ => .zpR
  | 2, _ => .imm
  | 3, 4 => .absW | 3, _ => .absR
  | 4, 4 => .izyW | 4, _ => .izyR
  | 5, 4 => .zpxW | 5, _ => .zpxR
  | 6, 4 => .absyW | 6, _ => .absyR
  | _, 4 => .absxW | _, _ => .absxR

/-- Group 2, `cc = 10`: the operation named by `aaa` (spec R132). -/
def group2Op (aaa : Nat) : Mnemonic :=
  match aaa with
  | 0 => .asl | 1 => .rol | 2 => .lsr | 3 => .ror | 4 => .stx | 5 => .ldx | 6 => .dec | _ => .inc

/-- The list of a mode `bbb` (1 zp, 3 abs, 5 zp,X, 7 abs,X) for a read, a write and a read-modify-write operation
(spec R132). -/
def groupModeList (read write : Bool) (bbb : Nat) : Option ListName :=
  match bbb, read, write with
  | 1, true, _ => some .zpR | 1, false, true => some .zpW | 1, false, false => some .zpRmw
  | 3, true, _ => some .absR | 3, false, true => some .absW | 3, false, false => some .absRmw
  | 5, true, _ => some .zpxR | 5, false, true => some .zpxW | 5, false, false => some .zpxRmw
  | 7, true, _ => some .absxR | 7, false, true => some .absxW | 7, false, false => some .absxRmw
  | _, _, _ => none

/-- Group 2 (spec R132): LDX takes the R lists, STX the W lists, the shifts, INC and DEC the RMW lists; `bbb = 2` is the
accumulator form, and `bbb = 4` is `(zp)` of the group-1 operation with the same `aaa`. -/
def group2 (aaa bbb : Nat) : Option (Mnemonic × ListName) :=
  if bbb = 4 then some (group1Op aaa, if aaa = 4 then .izpW else .izpR)
  else if bbb = 2 then some (group2Op aaa, .imp)
  else (groupModeList (aaa == 5) (aaa == 4) bbb).map fun l => (group2Op aaa, l)

/-- Group 3, `cc = 00`: the operation named by `aaa`, where it names one (spec R132). -/
def group3Op (aaa : Nat) : Option Mnemonic :=
  match aaa with
  | 1 => some .bit | 4 => some .sty | 5 => some .ldy | 6 => some .cpy | 7 => some .cpx
  | _ => none

/-- The conditional branch with `aaa`: bits 7 and 6 name the flag and bit 5 the value that takes it (spec R132, R290). -/
def branchColumn (aaa : Nat) : Mnemonic :=
  match aaa with
  | 0 => .bpl | 1 => .bmi | 2 => .bvc | 3 => .bvs | 4 => .bcc | 5 => .bcs | 6 => .bne | _ => .beq

/-- Group 3 (spec R132): the branch column at `bbb = 4`, immediate at `bbb = 0`, else STY takes the W lists and the others
the R lists. -/
def group3 (aaa bbb : Nat) : Option (Mnemonic × ListName) :=
  if bbb = 4 then some (branchColumn aaa, .rel)
  else match group3Op aaa with
    | none => none
    | some m =>
      if bbb = 0 then some (m, .imm)
      else (groupModeList (aaa != 4) true bbb).map fun l => (m, l)

/-- The column `cc = 11`: $x7 is RMB or SMB, $xF is BBR or BBS, with the bit index in bits 6 to 4; $x3 and $xB are one-byte
no-ops (spec R132). -/
def group4 (opcode : Byte) : Mnemonic × ListName :=
  let b : Fin 8 := ⟨opcode.toNat / 16 % 8, Nat.mod_lt _ (by decide)⟩
  let upper := opcode.getLsbD 7
  if opcode.toNat % 16 = 7 then (if upper then .smb b else .rmb b, .zpRmw)
  else if opcode.toNat % 16 = 15 then (if upper then .bbs b else .bbr b, .zpRel)
  else (.undefinedNop, .nop1)

/-- What the systematic rule alone gives for an opcode in the `aaabbbcc` view (spec R102, R132). -/
def systematic (opcode : Byte) : Option (Mnemonic × ListName) :=
  let aaa := opcode.toNat / 32
  let bbb := opcode.toNat / 4 % 8
  match opcode.toNat % 4 with
  | 1 => some (group1Op aaa, group1List aaa bbb)
  | 2 => group2 aaa bbb
  | 0 => group3 aaa bbb
  | _ => some (group4 opcode)

/-- The override list (spec R133, with R131's undefined opcodes) and the hand-built lists BRK, RTI, RTS and STP (spec R134):
the opcodes the systematic rule does not give, or gives wrong. -/
def override (opcode : Byte) : Option (Mnemonic × ListName) :=
  match opcode.toNat with
  | 0x20 => some (.jsr, .jsr) | 0x4C => some (.jmp, .jmpAbs) | 0x6C => some (.jmp, .jmpInd)
  | 0x7C => some (.jmp, .jmpIax) | 0x80 => some (.bra, .rel) | 0x64 => some (.stz, .zpW) | 0x74 => some (.stz, .zpxW)
  | 0x9C => some (.stz, .absW) | 0x9E => some (.stz, .absxW) | 0xA0 => some (.ldy, .imm) | 0xC0 => some (.cpy, .imm)
  | 0xE0 => some (.cpx, .imm) | 0xA2 => some (.ldx, .imm) | 0x96 => some (.stx, .zpyW) | 0xB6 => some (.ldx, .zpyR)
  | 0xBE => some (.ldx, .absyR) | 0x89 => some (.bit, .imm) | 0x34 => some (.bit, .zpxR)
  | 0x3C => some (.bit, .absxR) | 0x04 => some (.tsb, .zpRmw) | 0x0C => some (.tsb, .absRmw)
  | 0x14 => some (.trb, .zpRmw) | 0x1C => some (.trb, .absRmw) | 0x1A => some (.inc, .imp)
  | 0x3A => some (.dec, .imp) | 0x08 => some (.php, .php) | 0x28 => some (.plp, .plp) | 0x48 => some (.pha, .push)
  | 0x68 => some (.pla, .pull) | 0x5A => some (.phy, .push) | 0x7A => some (.ply, .pull) | 0xDA => some (.phx, .push)
  | 0xFA => some (.plx, .pull) | 0x88 => some (.dey, .imp) | 0x8A => some (.txa, .imp) | 0x98 => some (.tya, .imp)
  | 0x9A => some (.txs, .imp) | 0xA8 => some (.tay, .imp) | 0xAA => some (.tax, .imp) | 0xB8 => some (.clv, .imp)
  | 0xBA => some (.tsx, .imp) | 0xC8 => some (.iny, .imp) | 0xCA => some (.dex, .imp) | 0xE8 => some (.inx, .imp)
  | 0xEA => some (.nop, .imp) | 0x18 => some (.clc, .imp) | 0x38 => some (.sec, .imp) | 0x58 => some (.cli, .imp)
  | 0x78 => some (.sei, .imp) | 0xD8 => some (.cld, .imp) | 0xF8 => some (.sed, .imp) | 0xCB => some (.wai, .wai)
  | 0x00 => some (.brk, .brk) | 0x40 => some (.rti, .rti) | 0x60 => some (.rts, .rts) | 0xDB => some (.stp, .stp)
  | 0x02 => some (.undefinedNop, .nopImm) | 0x22 => some (.undefinedNop, .nopImm)
  | 0x42 => some (.undefinedNop, .nopImm) | 0x62 => some (.undefinedNop, .nopImm)
  | 0x82 => some (.undefinedNop, .nopImm) | 0xC2 => some (.undefinedNop, .nopImm)
  | 0xE2 => some (.undefinedNop, .nopImm) | 0x44 => some (.undefinedNop, .nopZp)
  | 0x54 => some (.undefinedNop, .nopZpx) | 0xD4 => some (.undefinedNop, .nopZpx)
  | 0xF4 => some (.undefinedNop, .nopZpx) | 0x5C => some (.undefinedNop, .nop5c)
  | 0xDC => some (.undefinedNop, .nopAbs) | 0xFC => some (.undefinedNop, .nopAbs)
  | _ => none

/-- The decoder by its construction: the override list, else the systematic rule (spec R132 to R134). -/
def constructed (opcode : Byte) : Option (Mnemonic × ListName) :=
  (override opcode).or (systematic opcode)

/-! ### Whole instructions as bytes (spec R100, R101, R138) -/

/-- Why bytes are no instruction. Every opcode is defined, so the only cause is that the bytes end too soon. -/
inductive DecodeError where
  /-- There is no byte at all. -/
  | noOpcode
  /-- The opcode's format has more operand bytes than are there. -/
  | truncated (i : Instr)
  deriving DecidableEq, Repr

/-- Reads one instruction from the front of a list of bytes, with the bytes after it (spec R100, R138). -/
def decodeInsn (bytes : List Byte) : Except DecodeError (Insn × List Byte) :=
  match bytes with
  | [] => .error .noOpcode
  | b :: rest =>
    let i := decodeOpcode b
    if rest.length < i.operandCount then .error (.truncated i)
    else .ok (⟨i, rest.take i.operandCount⟩, rest.drop i.operandCount)

/-- The bytes of an instruction: the opcode, then the operand bytes at increasing addresses (spec R100). -/
def encodeInsn (n : Insn) : List Byte := n.instr.opcode :: n.operands

/-- The bytes of an instruction given as a number, numbered as spec/opcode_table.json numbers bits: bit 0 is the least
significant bit of the first byte. Bits from `nbits` up are 0, and the list is as long as the longest instruction. -/
def tableBytes (nbits w : Nat) : List Byte :=
  let v := w % 2 ^ nbits
  [BitVec.ofNat 8 v, BitVec.ofNat 8 (v / 256), BitVec.ofNat 8 (v / 65536)]

/-- The instruction the decoder reads from a table word. -/
def decodeTableWord (nbits w : Nat) : Option Instr :=
  match decodeInsn (tableBytes nbits w) with
  | .ok (n, _) => some n.instr
  | .error _ => none

end Sys2Proof
end

