-- ==== Sys2Proof/Config.lean ====
section
/-!
DEFINITION. What the spec fixes for this implementation (spec R8) and the free values it leaves open (draws, spec R10, R12).
A free value has no body: nothing in Lean can evaluate it, so every claim holds whatever it is.
-/

namespace Sys2Proof.Config

/-- The NMI vector address (spec R374, decision D3). -/
def vectorNmi : Word := 0xFFFA#16

/-- The RESET vector address (spec R374, decision D3). -/
def vectorReset : Word := 0xFFFC#16

/-- The IRQ and BRK vector address (spec R374, decision D3). -/
def vectorIrq : Word := 0xFFFE#16

/-- The high byte of every stack address: the stack page is $0100 to $01FF (spec R8, R23). -/
def stackPage : Byte := 0x01#8

/-- The high byte of every zero-page address (spec R8, R83). -/
def zeroPage : Byte := 0x00#8

/-- The requested width of the address bus (spec R8, R69). -/
def addrWidth : Int := 16

/-- The requested width of the data bus (spec R8, R69). -/
def dataWidth : Int := 8

/-- What a byte of a device's memory reads as while nothing has written it.
DESIGN CHOICE, unsafe: the spec gives no contents of RAM after power-on (log entry 3). -/
def unwrittenByte : Byte := 0x00#8

/-- The `n`-th byte that the spec leaves free: a draw (spec R10). It stands for A after a decimal ADC or SBC on operands
that are not BCD (R235, R237, decision D13) and for the byte an external device answers (R81, M16). Log entry 2. -/
opaque drawByte : Nat → Byte

/-- The `n`-th bit that the spec leaves free: a draw (spec R10). It stands for N and V after a decimal ADC or SBC and for
C and Z too when an operand is not BCD (R235, R237, decisions D12 and D13). Log entry 2. -/
opaque drawBit : Nat → Bool

end Sys2Proof.Config
end

