-- ==== Sys2Proof/Machine/Bus.lean ====
section
/-!
DEFINITION. The Bus: a value of a width fixed at construction, with no listeners and no edges (spec R66 to R68).
-/

namespace Sys2Proof.Machine

/-- The width a Bus takes for a requested width: clamped to 0 to 32 (spec R8, R66, M20). -/
def busWidth (requested : Int) : Nat := (min (max requested 0) 32).toNat

/-- A Bus of width `w`: its name and its value, which is always below `2^w` (spec R66). -/
structure Bus (w : Nat) where
  name : String
  value : BitVec w
  deriving DecidableEq, Repr

/-- A Bus is constructed with a requested width, which is clamped, and an initial value, which is taken modulo `2^w` (spec R66). -/
def Bus.new (name : String) (requested : Int) (initial : Nat) : Bus (busWidth requested) := ⟨name, BitVec.ofNat _ initial⟩

/-- `value(v)` on a Bus: stores `v mod 2^w` and notifies nobody (spec R66 to R68). -/
def Bus.put {w : Nat} (bus : Bus w) (v : Nat) : Bus w := { bus with value := BitVec.ofNat w v }

end Sys2Proof.Machine
end

