-- ==== Sys2Proof/Machine/State.lean ====
section
/-!
DEFINITION. The state of the machine: every piece of state the spec names, as plain data, with the reasons a step can stop,
the state at power-on and the state right after reset.

The spec's state is in four parts: the register file (R20 to R29), the transient latches (R30 to R37), the engine state
(R38 to R43) and the Backplane's pins and buses (R44, R45, R60 to R70). The devices of the platform stand beside them as the
bus contract describes them (R78). Three fields are the MODEL's own: `waiSemantics` (the spec's named parameter, R8), `script`
(what the environment does at the cycles to come) and `draws` (how many free values have been used).
-/

namespace Sys2Proof.Machine

/-! ### Tags of a Cycle descriptor (spec R104 to R106) -/

/-- Address-source tags (spec R105). -/
inductive AddrTag where
  | pc | pcInc | abs | absX | absY | absXP1 | absInc | zp | zpInc | zpX | zpY | zpXP1
  | sp | spPreinc | spPostdec | vecLo | vecHi
  deriving DecidableEq, Repr

/-- Data-source and data-sink tags (spec R106). -/
inductive DataTag where
  | opcode | data | p | zpPtr | al | ah | internal | pcl | pch | npcl | npch | null | halt
  deriving DecidableEq, Repr

/-- The direction of a bus cycle: R drives RWB true, W drives RWB false (spec R104). -/
inductive Direction where
  | read | write
  deriving DecidableEq, Repr

/-! ### Registers, latches, engine state (spec R20 to R43) -/

/-- The register file: PC (R20), A (R21), X and Y (R22), S (R23) and P (R24, bit layout R27). -/
structure Regs where
  pc : Word
  a : Byte
  x : Byte
  y : Byte
  s : Byte
  p : Byte
  deriving DecidableEq, Repr

/-- The transient latches: IR (R30), D (R31), AL and AH (R32), EAL and EAH (R33), ZP (R34), NPCL and NPCH (R35), BD (R36). -/
structure Latches where
  ir : Byte
  d : Byte
  al : Byte
  ah : Byte
  eal : Byte
  eah : Byte
  zp : Byte
  npcl : Byte
  npch : Byte
  bd : Bool
  deriving DecidableEq, Repr

/-- The latched InterruptMode (spec R40, R371). -/
inductive Mode where
  | none | nmi | reset | irq
  deriving DecidableEq, Repr

/-- What a cycle list is running: an instruction, or hardware interrupt entry (spec R38, R42). The spec names an instruction
by its opcode byte; the 256 opcodes and the 256 `Instr` are one to one. -/
inductive Running where
  | intr
  | instr (i : Instr)
  deriving DecidableEq, Repr

/-- The engine's control state: LIST, IDX and INSTR (R38), PREV (R39: `prevTag`, `prevRw`), MODE (R40), EXTRA (R41),
PENDING (R42), STOPPED and CYCLES (R43). -/
structure Engine where
  list : ListName
  idx : Nat
  instr : Running
  prevTag : DataTag
  prevRw : Direction
  mode : Mode
  extra : Nat
  pending : Option Running
  stopped : Bool
  cycles : Nat
  deriving DecidableEq, Repr

/-! ### Signals, buses and the Backplane (spec R60 to R70) -/

/-- The type of an edge (spec R60). -/
inductive Edge where
  | rising | falling
  deriving DecidableEq, Repr

/-- A Signal: its name, its level and its set of listeners, in the order in which it notifies them (spec R60, R75).
A listener is held by its identity; the CPU and the devices, which listen on PHI2, are not among these identities
(`State.devices`). -/
structure Signal where
  name : String
  level : Bool
  listeners : List Nat
  deriving DecidableEq, Repr

/-- An OpenCollector: the votes of its drivers, a finite map kept as a list with driver identities strictly rising, and its
listeners (spec R65). Its level is not stored: it is always the AND of the votes. -/
structure OpenCollector where
  name : String
  votes : List (Nat × Bool)
  listeners : List Nat
  deriving DecidableEq, Repr

/-- The Backplane: one address bus, one data bus and nine signals, with the polarities of R44 (spec R69, R70). -/
structure Backplane where
  addr : Bus 16
  data : Bus 8
  phi2 : Signal
  rwb : Signal
  sync : Signal
  vpb : Signal
  mlb : Signal
  rdy : Signal
  resb : Signal
  irqb : OpenCollector
  be : Signal
  deriving DecidableEq, Repr

/-! ### Memory and devices (spec R78 to R83) -/

/-- Bytes by address, in one canonical form: addresses strictly rising, no entry equal to `Config.unwrittenByte`, which is
what an unlisted address reads as (`Memory.wf`). -/
abbrev Memory := List Host.Cell

/-- How a device answers the bus cycles it decodes (spec R78, R81). `ram` reads and takes its bytes; `rom` reads them and
drops what is written; `external` stands for any other device that meets the contract: each read answers a free byte. -/
inductive DeviceKind where
  | ram | rom | external
  deriving DecidableEq, Repr

/-- A device registered on PHI2 (spec R71, R78). It answers an address `a` when `a` agrees with `base` on the bits of `mask`
(spec R79, R385: "base address, address mask"). `id` is its identity as a listener. -/
structure Device where
  id : Nat
  base : Word
  mask : Word
  kind : DeviceKind
  cells : Memory
  deriving DecidableEq, Repr

/-! ### The model's own fields -/

/-- The values of the named parameter `wai_semantics` (spec R8, R347, decision D14). -/
inductive WaiSemantics where
  | refuse | nop | waitForIrq
  deriving DecidableEq, Repr

/-- One thing the environment can do between two cycles (spec R47, R65, R71, R73, R76). -/
inductive EnvAction where
  /-- `reset(b)`: set RESB to `not b` (spec R47). -/
  | reset (asserted : Bool)
  /-- `ready(b)`: set RDY to `b` (spec R47). -/
  | ready (b : Bool)
  /-- Set BE (spec R44); nothing reads it (decision D4). -/
  | busEnable (b : Bool)
  /-- `value(drv, b)` on IRQB (spec R65). -/
  | irqVote (driver : Nat) (b : Bool)
  /-- `detach(drv)` on IRQB (spec R65). -/
  | irqDetach (driver : Nat)
  /-- A device registers its listener on PHI2, after those already registered (spec R64, R71). -/
  | attach (d : Device)
  /-- `detach()` of the device with this identity (spec R78). -/
  | detach (id : Nat)
  /-- An external bus master drives ADDR, DATA and RWB, which it may do only while RDY is false (spec R76, R415). -/
  | master (addr : Word) (data : Byte) (read : Bool)
  deriving DecidableEq, Repr

/-- The whole machine. -/
structure State where
  regs : Regs
  latch : Latches
  eng : Engine
  bp : Backplane
  /-- The devices registered on PHI2, in the order in which PHI2 notifies them (spec R71, R75, R78). -/
  devices : List Device
  /-- The named parameter `wai_semantics` (spec R8), which a machine is built with. No step changes it. -/
  waiSemantics : WaiSemantics
  /-- What the environment does before each of the next cycles: the first entry before the next cycle. Past its end the
  environment leaves every pin as it is. -/
  script : List (List EnvAction)
  /-- How many free values have been used: the index of the next one. -/
  draws : Nat
  deriving DecidableEq, Repr

/-! ### Why a step can stop -/

/-- Reasons for a fault. Both stand for a defect in the cycle tables, which the closed tables rule out (spec R139, R370, R389):
no state that meets `Inv` raises one. -/
inductive Fault where
  /-- Raised by `tick` when LIST has no cycle at IDX: the "unrecognized micro-operation", a table defect that a model must report
  to its host rather than continue (spec C7, M9, R370). Safe: the machine stops. -/
  | tableDefect
  /-- Raised by `tick` when a vector cycle of the INTR list runs with MODE = NONE, which has no vector (spec R40, R374). Safe:
  the spec gives no address here and no run reaches it. -/
  | noVector
  deriving DecidableEq, Repr

/-- Reasons for a refusal. -/
inductive Refusal where
  /-- Raised by `exec` for an instruction that has no meaning yet. Safe. No arm raises it. -/
  | notModelled (mnemonic : String)
  /-- Raised by `tick` at WAI's INTERNAL cycle when `waiSemantics` is `refuse`: "A model must stop simulating and report that
  WAI was executed" (spec R347, R416). Safe. -/
  | waiExecuted
  deriving DecidableEq, Repr

/-- The outcome of an edge, a cycle or a step. -/
abbrev Outcome := Host.Outcome State Fault Refusal

/-! ### Power-on and reset (spec R46, R400 to R405) -/

/-- The Backplane with every signal at its idle level: the clock high, so that the next edge is the CPU's active edge (R74),
RDY true, RESB and IRQB not asserted. The bus values and the levels of the CPU's outputs are draws at power-on (R46, D6): the
arguments. -/
def Backplane.idle (addr data : Nat) (rwb sync vpb mlb : Bool) : Backplane where
  addr := Bus.new "ADDR" Config.addrWidth addr
  data := Bus.new "DATA" Config.dataWidth data
  phi2 := ⟨"PHI2", true, []⟩
  rwb := ⟨"RWB", rwb, []⟩
  sync := ⟨"SYNC", sync, []⟩
  vpb := ⟨"VPB", vpb, []⟩
  mlb := ⟨"MLB", mlb, []⟩
  rdy := ⟨"RDY", true, []⟩
  resb := ⟨"RESB", true, []⟩
  irqb := ⟨"IRQB", [], []⟩
  be := ⟨"BE", true, []⟩

/-- One RAM device that answers every address, holding `cells`. DESIGN CHOICE (log entry 4): the spec leaves the platform's
memory map open (R83). -/
def Device.fullRam (cells : Memory) : Device where
  id := 0
  base := 0#16
  mask := 0#16
  kind := .ram
  cells := cells

/-- The state at power-on, before any edge, of a machine with this value of `wai_semantics` (spec R8, R46, R405): the engine's
control state as decision D9 gives it, every draw of the register file, the latches, the buses and the outputs named by log entry 1
as zero (RWB, VPB and MLB true, SYNC false). -/
def State.powerOnWith (wai : WaiSemantics) : State where
  regs := ⟨0#16, 0#8, 0#8, 0#8, 0#8, 0#8⟩
  latch := ⟨0#8, 0#8, 0#8, 0#8, 0#8, 0#8, 0#8, 0#8, 0#8, false⟩
  eng := ⟨.intr, 0, .intr, .null, .read, .none, 0, none, false, 0⟩
  bp := Backplane.idle 0 0 true false true true
  devices := [Device.fullRam []]
  waiSemantics := wai
  script := []
  draws := 0

/-- The state right after reset of a machine with this value of `wai_semantics`: just after the last edge, e7, of the 7-cycle reset
sequence (spec R46, R400), run from `powerOnWith` with RESB asserted at e1 alone. S is `trunc_8(S0 - 3)` and P has I set and D clear
(R402); the pushed status byte $20 stands at $01FE, the third stack write of the sequence (R400, G1), and the other two wrote $00.
Every value the spec leaves open is named by log entry 1. `Laws/Steps.lean` proves that running the sequence gives this state. -/
def State.resetWith (wai : WaiSemantics) : State where
  regs := ⟨0#16, 0#8, 0#8, 0#8, 0xFD#8, 0x04#8⟩
  latch := ⟨0#8, 0#8, 0#8, 0#8, 0#8, 0#8, 0#8, 0#8, 0#8, false⟩
  eng := ⟨.intr, 0, .intr, .npch, .read, .none, 0, some .intr, false, 7⟩
  bp := Backplane.idle 0xFFFD 0 true false false true
  devices := [Device.fullRam [(0x01FE, 0x20#8)]]
  waiSemantics := wai
  script := []
  draws := 0

/-- The value of `wai_semantics` where the machine is given no other: "default `refuse`" (spec R8, R347, decision D14). -/
def WaiSemantics.default : WaiSemantics := .refuse

/-- The state at power-on, with the default of the parameter. -/
def State.powerOn : State := State.powerOnWith WaiSemantics.default

/-- The state right after reset, with the default of the parameter. -/
def State.reset : State := State.resetWith WaiSemantics.default

end Sys2Proof.Machine
end

