-- ==== Sys2Proof/Machine/Backplane.lean ====
section
/-!
DEFINITION. The lines of the Backplane: Signal and OpenCollector (spec R60 to R65), and what the environment can do to
the pins between two cycles (spec R47, R65, R71, R73, R76).
-/

namespace Sys2Proof.Machine

/-- One notification: which listener is called and with which edge type (spec R60, R62). -/
structure Call where
  listener : Nat
  edge : Edge
  deriving DecidableEq, Repr

/-- The edge type of a transition to level `b`: to true is rising, to false is falling (spec R62). -/
def edgeTo (b : Bool) : Edge := if b then .rising else .falling

/-! ### Dispatch (spec R62, R63)

One dispatch serves both variants of a line: `apply` carries out one act on the line and says which edge it made, if any. -/

/-- What is still to be done in a dispatch: call a listener, or carry out an act of a listener that has been called. -/
inductive LineTask (α : Type) where
  | notify (l : Nat) (e : Edge)
  | act (a : α)
  deriving DecidableEq, Repr

/-- The notifications of one transition: the listener set as it stands now, the snapshot (spec R62, R63). -/
def notifyAll {α : Type} (listeners : List Nat) (e : Edge) : List (LineTask α) := listeners.map fun l => .notify l e

/-- Carries out tasks in order, first to last. A called listener's acts come before what was waiting, and a nested act that makes a
transition puts its own snapshot in front: it "runs its own dispatch to completion" before the outer dispatch goes on with its own
snapshot and edge type (spec R63). `behaviour` says what each listener does when it is called. The result is the line, the calls
made, in order, and the tasks left when the fuel ends. -/
def dispatchWith {σ α : Type} (listeners : σ → List Nat) (apply : σ → α → σ × Option Edge) (behaviour : Nat → Edge → List α) :
    Nat → σ → List (LineTask α) → σ × List Call × List (LineTask α)
  | 0, line, todo => (line, [], todo)
  | _ + 1, line, [] => (line, [], [])
  | fuel + 1, line, .notify l e :: rest =>
    let r := dispatchWith listeners apply behaviour fuel line ((behaviour l e).map .act ++ rest)
    (r.1, ⟨l, e⟩ :: r.2.1, r.2.2)
  | fuel + 1, line, .act a :: rest =>
    match apply line a with
    | (line', none) => dispatchWith listeners apply behaviour fuel line' rest
    | (line', some e) => dispatchWith listeners apply behaviour fuel line' (notifyAll (listeners line') e ++ rest)

/-- Registering in a listener set is idempotent; a new listener comes last (spec R64, R75). -/
def addListener (ls : List Nat) (l : Nat) : List Nat := if l ∈ ls then ls else ls ++ [l]

/-- Unregistering has no effect when the listener is absent (spec R64). -/
def dropListener (ls : List Nat) (l : Nat) : List Nat := ls.filter fun k => k != l

/-! ### Signal (spec R60 to R64) -/

/-- `value(b)`: sets the level; on an actual transition every listener of the snapshot is called once, in listener order,
with the transition's edge type (spec R62, R75). This is what `dispatch` makes of it where no listener acts on the Signal. -/
def Signal.set (sig : Signal) (b : Bool) : Signal × List Call :=
  ({ sig with level := b }, if b = sig.level then [] else sig.listeners.map fun l => ⟨l, edgeTo b⟩)

/-- `register(l)` (spec R64). -/
def Signal.register (sig : Signal) (l : Nat) : Signal := { sig with listeners := addListener sig.listeners l }

/-- `unregister(l)` (spec R64). -/
def Signal.unregister (sig : Signal) (l : Nat) : Signal := { sig with listeners := dropListener sig.listeners l }

/-- What a listener may do to the Signal that is calling it (spec R63). -/
inductive ListenerAct where
  | register (l : Nat)
  | unregister (l : Nat)
  | set (b : Bool)
  deriving DecidableEq, Repr

/-- One act on a Signal, and the edge it made (spec R62, R64). -/
def Signal.apply (sig : Signal) (a : ListenerAct) : Signal × Option Edge :=
  match a with
  | .register l => (sig.register l, none)
  | .unregister l => (sig.unregister l, none)
  | .set b => ((sig.set b).1, if b = sig.level then none else some (edgeTo b))

/-- A dispatch of a Signal (spec R62, R63). -/
def Signal.dispatch (behaviour : Nat → Edge → List ListenerAct) (fuel : Nat) (sig : Signal) (todo : List (LineTask ListenerAct)) :
    Signal × List Call × List (LineTask ListenerAct) := dispatchWith Signal.listeners Signal.apply behaviour fuel sig todo

/-! ### OpenCollector (spec R65) -/

/-- Puts a vote in the map, at its place in rising order of driver identity (spec R65, `votes[drv] <- b`). -/
def votesPut (votes : List (Nat × Bool)) (drv : Nat) (b : Bool) : List (Nat × Bool) :=
  match votes with
  | [] => [(drv, b)]
  | (d, v) :: rest =>
    if drv < d then (drv, b) :: (d, v) :: rest
    else if drv = d then (drv, b) :: rest
    else (d, v) :: votesPut rest drv b

/-- The level: the AND of all votes, true when there is none (spec R65). -/
def OpenCollector.level (oc : OpenCollector) : Bool := oc.votes.all fun v => v.2

/-- Replaces the votes and calls the listeners if the level changed (spec R65, `recompute`). -/
def OpenCollector.recompute (oc : OpenCollector) (votes : List (Nat × Bool)) : OpenCollector × List Call :=
  let oc' := { oc with votes := votes }
  (oc', if oc'.level = oc.level then [] else oc.listeners.map fun l => ⟨l, edgeTo oc'.level⟩)

/-- `value(drv, b)` (spec R65). -/
def OpenCollector.vote (oc : OpenCollector) (drv : Nat) (b : Bool) : OpenCollector × List Call :=
  oc.recompute (votesPut oc.votes drv b)

/-- `detach(drv)` (spec R65). -/
def OpenCollector.detach (oc : OpenCollector) (drv : Nat) : OpenCollector × List Call :=
  oc.recompute (oc.votes.filter fun v => v.1 != drv)

/-- `value(b)`, without a driver, is ignored: no change, no notification (spec R65). -/
def OpenCollector.set (oc : OpenCollector) (_b : Bool) : OpenCollector × List Call := (oc, [])

/-- `register(l)`: an OpenCollector has "a listener set as in rule R60" (spec R64, R65). -/
def OpenCollector.register (oc : OpenCollector) (l : Nat) : OpenCollector := { oc with listeners := addListener oc.listeners l }

/-- `unregister(l)` (spec R64, R65). -/
def OpenCollector.unregister (oc : OpenCollector) (l : Nat) : OpenCollector := { oc with listeners := dropListener oc.listeners l }

/-- What a listener may do to the OpenCollector that is calling it (spec R63, R65). -/
inductive CollectorAct where
  | register (l : Nat)
  | unregister (l : Nat)
  | vote (drv : Nat) (b : Bool)
  | detach (drv : Nat)
  | set (b : Bool)
  deriving DecidableEq, Repr

/-- The edge between two states of an OpenCollector: where its level changed, the new level's (spec R65, `recompute`). -/
def OpenCollector.edgeFrom (before after : OpenCollector) : Option Edge :=
  if after.level = before.level then none else some (edgeTo after.level)

/-- One act on an OpenCollector, and the edge it made (spec R65). -/
def OpenCollector.apply (oc : OpenCollector) (a : CollectorAct) : OpenCollector × Option Edge :=
  match a with
  | .register l => (oc.register l, none)
  | .unregister l => (oc.unregister l, none)
  | .vote drv b => ((oc.vote drv b).1, oc.edgeFrom (oc.vote drv b).1)
  | .detach drv => ((oc.detach drv).1, oc.edgeFrom (oc.detach drv).1)
  | .set b => ((oc.set b).1, none)

/-- A dispatch of an OpenCollector, "as in R62 with the new edge type" (spec R63, R65). -/
def OpenCollector.dispatch (behaviour : Nat → Edge → List CollectorAct) (fuel : Nat) (oc : OpenCollector)
    (todo : List (LineTask CollectorAct)) : OpenCollector × List Call × List (LineTask CollectorAct) :=
  dispatchWith OpenCollector.listeners OpenCollector.apply behaviour fuel oc todo

/-! ### The environment between two cycles -/

/-- One action of the environment. An external master's drive counts only while RDY is false (spec R76, R415). The calls that
the pins make to their own listeners change nothing in the machine. -/
def State.act (s : State) (a : EnvAction) : State :=
  match a with
  | .reset asserted => { s with bp := { s.bp with resb := (s.bp.resb.set (!asserted)).1 } }
  | .ready b => { s with bp := { s.bp with rdy := (s.bp.rdy.set b).1 } }
  | .busEnable b => { s with bp := { s.bp with be := (s.bp.be.set b).1 } }
  | .irqVote drv b => { s with bp := { s.bp with irqb := (s.bp.irqb.vote drv b).1 } }
  | .irqDetach drv => { s with bp := { s.bp with irqb := (s.bp.irqb.detach drv).1 } }
  | .attach d => if s.devices.any (fun k => k.id == d.id) then s else { s with devices := s.devices ++ [d] }
  | .detach id => { s with devices := s.devices.filter fun k => k.id != id }
  | .master a v r =>
    if s.bp.rdy.level then s
    else { s with bp := { s.bp with
      addr := s.bp.addr.put a.toNat, data := s.bp.data.put v.toNat, rwb := (s.bp.rwb.set r).1 } }

/-- What the environment does before the next cycle: the first entry of `script`, which is used up (spec R73). -/
def State.takeInput (s : State) : State :=
  match s.script with
  | [] => s
  | actions :: rest => actions.foldl State.act { s with script := rest }

end Sys2Proof.Machine
end

