-- ==== Sys2Proof/Machine/Flags.lean ====
section
/-!
DEFINITION. The status register P and every flag computation of the spec: the bit layout (R27), the pushed status bytes (R28),
the flag string (R29), binary and decimal addition and subtraction (R234 to R237), comparison (R238), the shifts and rotates
(R261 to R264).
-/

namespace Sys2Proof.Machine

/-! ### Bits of P (spec R27) -/

/-- Bit positions of P (spec R27). -/
def bitC : Nat := 0
def bitZ : Nat := 1
def bitI : Nat := 2
def bitD : Nat := 3
def bitB : Nat := 4
def bitR : Nat := 5
def bitV : Nat := 6
def bitN : Nat := 7

/-- Reads flag `k` of a status byte (spec R10). -/
def flag (k : Nat) (p : Byte) : Bool := p.getLsbD k

/-- A status byte with flag `k` replaced (spec R10). -/
def setFlag (k : Nat) (b : Bool) (p : Byte) : Byte :=
  if b then p ||| (1#8 <<< k) else p &&& ~~~(1#8 <<< k)

/-- `setNZ(v)`: N is bit 7 of `v`, Z says that `v` is 0 (spec R10). -/
def setNZ (v : Byte) (p : Byte) : Byte := setFlag bitZ (v == 0#8) (setFlag bitN v.msb p)

/-- The status byte that PHP and BRK push: `P | $30` (spec R28, R175). -/
def pushedByInstr (p : Byte) : Byte := p ||| 0x30#8

/-- The status byte that hardware entry pushes: `(P | $20) & ~$10` (spec R28, R175, R377). -/
def pushedByEntry (p : Byte) : Byte := (p ||| 0x20#8) &&& ~~~(0x10#8)

/-- The status after the P-push cycle of BRK and INTR: I set, D cleared (spec R378). -/
def enteredStatus (p : Byte) : Byte := setFlag bitD false (setFlag bitI true p)

/-- The flag string: the letters of "NVRBDIZC" from bit 7 to bit 0, upper case when the bit is 1 (spec R29). -/
def flagString (p : Byte) : String :=
  String.ofList ([('N', 'n', 7), ('V', 'v', 6), ('R', 'r', 5), ('B', 'b', 4), ('D', 'd', 3), ('I', 'i', 2), ('Z', 'z', 1),
    ('C', 'c', 0)].map fun l => if flag l.2.2 p then l.1 else l.2.1)

/-! ### Addition and subtraction (spec R234 to R237) -/

/-- A byte with the carry and overflow that come with it. -/
structure Sum where
  value : Byte
  carry : Bool
  overflow : Bool
  deriving DecidableEq, Repr

/-- Binary addition with carry: the exact sum, carry above 255, overflow when the operands agree in sign and the result
does not (spec R234). -/
def addBinary (a m : Byte) (c : Bool) : Sum :=
  let r := a.toNat + m.toNat + c.toNat
  let v := BitVec.ofNat 8 r
  ⟨v, decide (r > 255), (~~~(a ^^^ m) &&& (a ^^^ v) &&& 0x80#8) != 0#8⟩

/-- Binary subtraction: addition of the complement (spec R236). -/
def subBinary (a m : Byte) (c : Bool) : Sum := addBinary a (m ^^^ 0xFF#8) c

/-- Both digits of a byte are decimal digits (spec R235). -/
def isBcd (v : Byte) : Bool := decide (v.toNat / 16 ≤ 9) && decide (v.toNat % 16 ≤ 9)

/-- The number two decimal digits stand for (spec R235). -/
def bcdValue (v : Byte) : Nat := 10 * (v.toNat / 16) + v.toNat % 16

/-- The two decimal digits of a number below 100 (spec R235). -/
def toBcd (n : Nat) : Byte := BitVec.ofNat 8 (n / 10 * 16 + n % 10)

/-- Decimal addition of BCD operands: the two digits of the sum, and the decimal carry (spec R235). -/
def addDecimal (a m : Byte) (c : Bool) : Byte × Bool :=
  let n := bcdValue a + bcdValue m + c.toNat
  (toBcd (n % 100), decide (n ≥ 100))

/-- Decimal subtraction of BCD operands: the difference modulo 100, and carry where there is no borrow (spec R237). -/
def subDecimal (a m : Byte) (c : Bool) : Byte × Bool :=
  let n : Int := (bcdValue a : Int) - (bcdValue m : Int) - (1 - (c.toNat : Int))
  (toBcd (n % 100).toNat, decide (n ≥ 0))

/-- The status after a comparison of `r` with `m`: carry says `r ≥ m` unsigned, N and Z come from the difference (spec R238). -/
def compared (r m p : Byte) : Byte := setNZ (r - m) (setFlag bitC (decide (m.toNat ≤ r.toNat)) p)

/-! ### Shifts and rotates (spec R261 to R264) -/

/-- Shift left: bit 7 goes to carry (spec R261). -/
def shiftLeft (v : Byte) : Byte × Bool := (v <<< 1, v.getLsbD 7)

/-- Shift right: bit 0 goes to carry (spec R262). -/
def shiftRight (v : Byte) : Byte × Bool := (v >>> 1, v.getLsbD 0)

/-- Rotate left through carry (spec R263). -/
def rotateLeft (v : Byte) (c : Bool) : Byte × Bool := ((v <<< 1) ||| (if c then 1#8 else 0#8), v.getLsbD 7)

/-- Rotate right through carry (spec R264). -/
def rotateRight (v : Byte) (c : Bool) : Byte × Bool := ((v >>> 1) ||| (if c then 0x80#8 else 0#8), v.getLsbD 0)

/-- The status after a shift or a rotate with result `r` (spec R261 to R264). -/
def shifted (r : Byte × Bool) (p : Byte) : Byte := setNZ r.1 (setFlag bitC r.2 p)

/-- Byte `v` with bit `b` cleared (spec R273). -/
def clearBit (b : Fin 8) (v : Byte) : Byte := v &&& ~~~(1#8 <<< b.val)

/-- Byte `v` with bit `b` set (spec R274). -/
def setBit (b : Fin 8) (v : Byte) : Byte := v ||| (1#8 <<< b.val)

end Sys2Proof.Machine
end

