-- ==== Sys2Proof/WellFormed.lean ====
section
/-!
DEFINITION. When an instruction as it stands in a program is well formed: it has exactly the operand bytes of its format (spec
R100). An `Instr` alone is always well formed, because every opcode is defined (spec R137). A branch written with its target
is well formed when the target is in reach of the offset byte (spec R140).
-/

namespace Sys2Proof

/-- An instruction with its operand bytes is well formed when it has as many as its format says (spec R100). -/
def Insn.wellFormed (n : Insn) : Bool := n.operands.length == n.instr.operandCount

/-- The offset byte of a branch from the instruction ending at `next` to `target`: `rr = target - next`, "which must lie in
-128..127" (spec R140). No offset byte stands for a target out of reach. -/
def branchOffset (next target : Word) : Option Byte :=
  let r := target - next
  if (loByte r).signExtend 16 = r then some (loByte r) else none

/-- A branch to `target` is well formed when its offset exists (spec R140). -/
def branchReaches (next target : Word) : Bool := (branchOffset next target).isSome

end Sys2Proof
end

