-- ==== Sys2Proof/Machine/Lists.lean ====
section
/-!
DEFINITION. The Cycle descriptor (spec R104) and the 46 addressing-mode cycle lists (spec R110 to R130), in the spec's order.
-/

namespace Sys2Proof.Machine

/-- A Cycle: the wiring of one bus cycle (spec R104). -/
structure Cycle where
  addr : AddrTag
  data : DataTag
  rw : Direction
  sync : Bool
  vpb : Bool
  mlb : Bool
  deriving DecidableEq, Repr

/-- `F`, the opcode fetch: index 0 of every list, the only cycle with SYNC 1 (spec R107, R108). -/
def fetch : Cycle := ⟨.pcInc, .opcode, .read, true, true, true⟩

/-- A read cycle with SYNC 0, VPB 1, MLB 1 (spec R104). -/
def rd (a : AddrTag) (d : DataTag) : Cycle := ⟨a, d, .read, false, true, true⟩

/-- A write cycle with SYNC 0, VPB 1, MLB 1 (spec R104). -/
def wr (a : AddrTag) (d : DataTag) : Cycle := ⟨a, d, .write, false, true, true⟩

/-- A vector read: VPB 0 (spec R107). -/
def vec (a : AddrTag) (d : DataTag) : Cycle := ⟨a, d, .read, false, false, true⟩

/-- A locked read of a read-modify-write: MLB 0 (spec R107). -/
def rdLocked (a : AddrTag) (d : DataTag) : Cycle := ⟨a, d, .read, false, true, false⟩

/-- The locked write of a read-modify-write: MLB 0 (spec R107). -/
def wrLocked (a : AddrTag) (d : DataTag) : Cycle := ⟨a, d, .write, false, true, false⟩

/-- The cycles after the fetch of each list (spec R110 to R130). -/
def cyclesAfterFetch (l : ListName) : List Cycle :=
  match l with
  -- R110
  | .imp => [rd .pc .null]
  -- R111
  | .imm => [rd .pcInc .data]
  -- R112
  | .zpR => [rd .pcInc .zpPtr, rd .zp .data]
  | .zpW => [rd .pcInc .zpPtr, wr .zp .data]
  -- R113
  | .zpRmw => [rd .pcInc .zpPtr, rdLocked .zp .data, rdLocked .zp .internal, wrLocked .zp .data]
  -- R114
  | .zpxR => [rd .pcInc .zpPtr, rd .pc .null, rd .zpX .data]
  | .zpyR => [rd .pcInc .zpPtr, rd .pc .null, rd .zpY .data]
  | .zpxW => [rd .pcInc .zpPtr, rd .pc .null, wr .zpX .data]
  | .zpyW => [rd .pcInc .zpPtr, rd .pc .null, wr .zpY .data]
  -- R115
  | .zpxRmw => [rd .pcInc .zpPtr, rd .pc .null, rdLocked .zpX .data, rdLocked .zpX .internal, wrLocked .zpX .data]
  -- R116
  | .absR => [rd .pcInc .al, rd .pcInc .ah, rd .abs .data]
  | .absW => [rd .pcInc .al, rd .pcInc .ah, wr .abs .data]
  -- R117
  | .absRmw => [rd .pcInc .al, rd .pcInc .ah, rdLocked .abs .data, rdLocked .abs .internal, wrLocked .abs .data]
  -- R118
  | .absxR => [rd .pcInc .al, rd .pcInc .ah, rd .absX .data]
  | .absyR => [rd .pcInc .al, rd .pcInc .ah, rd .absY .data]
  -- R119
  | .absxW => [rd .pcInc .al, rd .pcInc .ah, rd .absX .null, wr .absX .data]
  | .absyW => [rd .pcInc .al, rd .pcInc .ah, rd .absY .null, wr .absY .data]
  -- R120
  | .absxRmw => [rd .pcInc .al, rd .pcInc .ah, rd .absX .null, rdLocked .absX .data, rdLocked .absX .internal,
      wrLocked .absX .data]
  -- R121
  | .izxR => [rd .pcInc .zpPtr, rd .pc .null, rd .zpX .al, rd .zpXP1 .ah, rd .abs .data]
  | .izxW => [rd .pcInc .zpPtr, rd .pc .null, rd .zpX .al, rd .zpXP1 .ah, wr .abs .data]
  -- R122
  | .izyR => [rd .pcInc .zpPtr, rd .zpInc .al, rd .zp .ah, rd .absY .data]
  | .izyW => [rd .pcInc .zpPtr, rd .zpInc .al, rd .zp .ah, rd .absY .null, wr .absY .data]
  -- R123
  | .izpR => [rd .pcInc .zpPtr, rd .zpInc .al, rd .zp .ah, rd .abs .data]
  | .izpW => [rd .pcInc .zpPtr, rd .zpInc .al, rd .zp .ah, wr .abs .data]
  -- R124
  | .rel => [rd .pcInc .data]
  | .zpRel => [rd .pcInc .zpPtr, rd .zp .data, rd .zp .internal, rd .pcInc .data]
  -- R125
  | .jmpAbs => [rd .pcInc .npcl, rd .pc .npch]
  | .jmpInd => [rd .pcInc .al, rd .pcInc .ah, rd .pc .null, rd .absInc .npcl, rd .abs .npch]
  | .jmpIax => [rd .pcInc .al, rd .pcInc .ah, rd .pc .null, rd .absX .npcl, rd .absXP1 .npch]
  -- R126
  | .jsr => [rd .pcInc .npcl, rd .sp .null, wr .spPostdec .pch, wr .spPostdec .pcl, rd .pc .npch]
  | .rts => [rd .pc .null, rd .sp .null, rd .spPreinc .npcl, rd .spPreinc .npch, rd .pc .null]
  | .rti => [rd .pc .null, rd .sp .null, rd .spPreinc .p, rd .spPreinc .npcl, rd .spPreinc .npch]
  -- R127
  | .brk => [rd .pcInc .null, wr .spPostdec .pch, wr .spPostdec .pcl, wr .spPostdec .p, vec .vecLo .npcl,
      vec .vecHi .npch]
  | .intr => [rd .pc .null, wr .spPostdec .pch, wr .spPostdec .pcl, wr .spPostdec .p, vec .vecLo .npcl,
      vec .vecHi .npch]
  -- R128
  | .push => [rd .pc .null, wr .spPostdec .data]
  | .php => [rd .pc .null, wr .spPostdec .p]
  | .pull => [rd .pc .null, rd .sp .null, rd .spPreinc .data]
  | .plp => [rd .pc .null, rd .sp .null, rd .spPreinc .p]
  -- R129
  | .wai => [rd .pc .null, rd .pc .internal]
  | .stp => [rd .pc .halt]
  -- R130
  | .nop1 => []
  | .nopImm => [rd .pcInc .null]
  | .nopZp => [rd .pcInc .zpPtr, rd .zp .null]
  | .nopZpx => [rd .pcInc .zpPtr, rd .pc .null, rd .zpX .null]
  | .nopAbs => [rd .pcInc .al, rd .pcInc .ah, rd .abs .null]
  | .nop5c => [rd .pcInc .al, rd .pcInc .ah, rd .abs .null, rd .abs .null, rd .abs .null, rd .abs .null, rd .abs .null]

/-- The cycles of each list: the fetch and what follows it (spec R108 to R130). -/
def cyclesOf (l : ListName) : List Cycle := fetch :: cyclesAfterFetch l

/-- The base cycle count of an instruction: the length of its list (spec R109, R136). -/
def baseCycles (i : Instr) : Nat := (cyclesOf i.list).length

end Sys2Proof.Machine
end

