-- ==== Sys2Proof/Machine/Ops.lean ====
section
/-!
DEFINITION. The named operations over memory, devices and registers, and the operations every instruction shares: the bus cycle a
device answers (spec R78 to R81), the captures of step 3 (R166), free values, taking an interrupt and returning from one
(R168, R373 to R380).
-/

namespace Sys2Proof.Machine

/-! ### Memory -/

/-- The byte at an address: the listed one, else what an unlisted address reads as. -/
def Memory.read (m : Memory) (a : Nat) : Byte :=
  match m with
  | [] => Config.unwrittenByte
  | (b, v) :: rest => if b = a then v else Memory.read rest a

/-- Puts a cell before the first cell of a higher address. -/
def Memory.insert (m : Memory) (a : Nat) (v : Byte) : Memory :=
  match m with
  | [] => [(a, v)]
  | (b, w) :: rest => if a < b then (a, v) :: (b, w) :: rest else (b, w) :: Memory.insert rest a v

/-- Writes a byte, keeping the canonical form: a byte equal to what an unlisted address reads as is not listed. -/
def Memory.write (m : Memory) (a : Nat) (v : Byte) : Memory :=
  let others := m.filter fun c => c.1 != a
  if v = Config.unwrittenByte then others else Memory.insert others a v

/-- The canonical form: addresses strictly rising and inside the address space of R82, no entry equal to what an unlisted
address reads as. -/
def Memory.wf (m : Memory) : Bool :=
  decide (m.Pairwise fun c d => c.1 < d.1) && m.all fun c => decide (c.1 < 2 ^ 16) && c.2 != Config.unwrittenByte

/-! ### Devices (spec R78 to R81) -/

/-- Whether a device decodes an address as its own (spec R78, R385). -/
def Device.selects (d : Device) (a : Word) : Bool := (a &&& d.mask) == (d.base &&& d.mask)

/-- A device's part in a read cycle: a device that decodes the address writes its byte to DATA; the others leave DATA as it is
(spec R78, R80). `acc` is DATA and the index of the next free value. -/
def Device.answer (d : Device) (a : Word) (acc : Byte × Nat) : Byte × Nat :=
  if d.selects a then
    match d.kind with
    | .ram | .rom => (Memory.read d.cells a.toNat, acc.2)
    | .external => (Config.drawByte acc.2, acc.2 + 1)
  else acc

/-- A device's part in a write cycle: RAM that decodes the address takes the byte (spec R78, R80). ROM drops it; what another
device does with it is not in its answers, which are free anyway (spec R81). -/
def Device.take (d : Device) (a : Word) (v : Byte) : Device :=
  if d.selects a && d.kind == .ram then { d with cells := Memory.write d.cells a.toNat v } else d

/-- What a read cycle leaves on DATA: the devices answer in PHI2's listener order, the last one called wins, and DATA keeps
its value when none answers (spec R75, R80). -/
def answerAll (ds : List Device) (a : Word) (acc : Byte × Nat) : Byte × Nat := ds.foldl (fun acc d => d.answer a acc) acc

/-- What a write cycle leaves in the devices: each one that decodes the address takes the byte (spec R80). -/
def takeAll (ds : List Device) (a : Word) (v : Byte) : List Device := ds.map fun d => d.take a v

/-- Why a device cannot be built (spec R79). -/
inductive ConstructError where
  /-- A required configuration key is missing. -/
  | missingKey (key : String)
  /-- A numeric configuration value cannot be parsed. -/
  | unparsable (key : String)
  /-- The backing file is missing or unreadable. -/
  | missingFile
  deriving DecidableEq, Repr

/-- A required number of a device's configuration (spec R79). -/
def configNumber (config : List (String × String)) (key : String) : Except ConstructError Nat :=
  match config.lookup key with
  | none => .error (.missingKey key)
  | some text => match text.toNat? with
    | none => .error (.unparsable key)
    | some n => .ok n

/-- The cells of a ROM image, "loaded verbatim at a configured base" (spec R79). -/
def imageCells (base : Nat) (image : List Byte) : Memory :=
  (List.range image.length).foldl (fun m k => Memory.write m ((base + k) % 2 ^ 16) (image.getD k Config.unwrittenByte)) []

/-- Builds a device from its configuration, or says why not; a device that fails is not attached (spec R78, R79, M17). `image` is
what its backing file holds, for a device that has one: `some none` is a file that cannot be read. -/
def Device.construct (id : Nat) (kind : DeviceKind) (config : List (String × String)) (image : Option (Option (List Byte))) :
    Except ConstructError Device :=
  match configNumber config "base address", configNumber config "address mask", image with
  | .error e, _, _ => .error e
  | _, .error e, _ => .error e
  | _, _, some none => .error .missingFile
  | .ok base, .ok mask, none => .ok ⟨id, BitVec.ofNat 16 base, BitVec.ofNat 16 mask, kind, []⟩
  | .ok base, .ok mask, some (some bytes) =>
    .ok ⟨id, BitVec.ofNat 16 base, BitVec.ofNat 16 mask, kind, imageCells base bytes⟩

/-! ### One home for every register: the named updates -/

/-- Writes PC (spec R20). -/
def State.setPc (st : State) (v : Word) : State :=
  { st with regs := { st.regs with pc := v } }

/-- Writes A (spec R21). -/
def State.setA (st : State) (v : Byte) : State :=
  { st with regs := { st.regs with a := v } }

/-- Writes X (spec R22). -/
def State.setX (st : State) (v : Byte) : State :=
  { st with regs := { st.regs with x := v } }

/-- Writes Y (spec R22). -/
def State.setY (st : State) (v : Byte) : State :=
  { st with regs := { st.regs with y := v } }

/-- Writes S (spec R23). -/
def State.setS (st : State) (v : Byte) : State :=
  { st with regs := { st.regs with s := v } }

/-- Writes P (spec R24). -/
def State.setP (st : State) (v : Byte) : State :=
  { st with regs := { st.regs with p := v } }

/-- Writes IR (spec R30). -/
def State.setIr (st : State) (v : Byte) : State :=
  { st with latch := { st.latch with ir := v } }

/-- Writes D (spec R31). -/
def State.setD (st : State) (v : Byte) : State :=
  { st with latch := { st.latch with d := v } }

/-- Writes AL (spec R32). -/
def State.setAl (st : State) (v : Byte) : State :=
  { st with latch := { st.latch with al := v } }

/-- Writes AH (spec R32). -/
def State.setAh (st : State) (v : Byte) : State :=
  { st with latch := { st.latch with ah := v } }

/-- Writes EAL (spec R33). -/
def State.setEal (st : State) (v : Byte) : State :=
  { st with latch := { st.latch with eal := v } }

/-- Writes EAH (spec R33). -/
def State.setEah (st : State) (v : Byte) : State :=
  { st with latch := { st.latch with eah := v } }

/-- Writes ZP (spec R34). -/
def State.setZp (st : State) (v : Byte) : State :=
  { st with latch := { st.latch with zp := v } }

/-- Writes NPCL (spec R35). -/
def State.setNpcl (st : State) (v : Byte) : State :=
  { st with latch := { st.latch with npcl := v } }

/-- Writes NPCH (spec R35). -/
def State.setNpch (st : State) (v : Byte) : State :=
  { st with latch := { st.latch with npch := v } }

/-- Writes BD (spec R36). -/
def State.setBd (st : State) (v : Bool) : State :=
  { st with latch := { st.latch with bd := v } }

/-- Writes LIST (spec R38). -/
def State.setList (st : State) (v : ListName) : State :=
  { st with eng := { st.eng with list := v } }

/-- Writes IDX (spec R38). -/
def State.setIdx (st : State) (v : Nat) : State :=
  { st with eng := { st.eng with idx := v } }

/-- Writes INSTR (spec R38). -/
def State.setInstr (st : State) (v : Running) : State :=
  { st with eng := { st.eng with instr := v } }

/-- Writes MODE (spec R40). -/
def State.setMode (st : State) (v : Mode) : State :=
  { st with eng := { st.eng with mode := v } }

/-- Writes EXTRA (spec R41). -/
def State.setExtra (st : State) (v : Nat) : State :=
  { st with eng := { st.eng with extra := v } }

/-- Writes PENDING (spec R42). -/
def State.setPending (st : State) (v : Option Running) : State :=
  { st with eng := { st.eng with pending := v } }

/-- Writes STOPPED (spec R43). -/
def State.setStopped (st : State) (v : Bool) : State :=
  { st with eng := { st.eng with stopped := v } }

/-- Writes CYCLES (spec R48). -/
def State.setCycles (st : State) (v : Nat) : State :=
  { st with eng := { st.eng with cycles := v } }

/-- Writes PREV (spec R39). -/
def State.setPrev (st : State) (t : DataTag) (r : Direction) : State :=
  { st with eng := { st.eng with prevTag := t, prevRw := r } }

/-- Drives ADDR (spec R66, R171). -/
def State.setAddr (st : State) (v : Word) : State :=
  { st with bp := { st.bp with addr := { st.bp.addr with value := v } } }

/-- Writes DATA, as the CPU in a write cycle or a device in a read cycle (spec R66, R67). -/
def State.setData (st : State) (v : Byte) : State :=
  { st with bp := { st.bp with data := { st.bp.data with value := v } } }

/-- Drives PHI2 (spec R62, R73). -/
def State.setPhi2 (st : State) (b : Bool) : State :=
  { st with bp := { st.bp with phi2 := (st.bp.phi2.set b).1 } }

/-- Drives the four control lines (spec R171). -/
def State.setLines (st : State) (rwb sync vpb mlb : Bool) : State :=
  { st with bp := { st.bp with
    rwb := (st.bp.rwb.set rwb).1, sync := (st.bp.sync.set sync).1, vpb := (st.bp.vpb.set vpb).1, mlb := (st.bp.mlb.set mlb).1 } }

/-- Replaces the attached devices with their contents (spec R78). -/
def State.setDevices (st : State) (v : List Device) : State :=
  { st with devices := v }

/-- Counts the free values used (spec R10, draw). -/
def State.setDraws (st : State) (v : Nat) : State :=
  { st with draws := v }

/-! ### The bus -/

/-- The byte on the data bus. -/
def State.dataBus (st : State) : Byte := st.bp.data.value

/-- The byte a read of address `a` gives when a memory device answers it: DATA starts from `Config.unwrittenByte`, which shows only where no
device answers. -/
def State.peek (st : State) (a : Word) : Byte := (answerAll st.devices a (Config.unwrittenByte, st.draws)).1

/-- The device edge, the rising edge of PHI2: every attached device inspects ADDR and RWB and answers (spec R74, R78). -/
def State.deviceEdge (st : State) : State :=
  if st.bp.rwb.level then
    let r := answerAll st.devices st.bp.addr.value (st.dataBus, st.draws)
    (st.setData r.1).setDraws r.2
  else st.setDevices (takeAll st.devices st.bp.addr.value st.dataBus)

/-- Stores a byte in every RAM that decodes the address, with no bus cycle: how a program is loaded from outside. -/
def State.load (st : State) (a : Word) (v : Byte) : State := st.setDevices (takeAll st.devices a v)

/-! ### Status and free values -/

/-- Changes P by a function of P (spec R24). -/
def State.mapP (st : State) (f : Byte → Byte) : State := st.setP (f st.regs.p)

/-- `schedule_extra(n)` (spec R10, R163). -/
def State.scheduleExtra (st : State) (n : Nat) : State := st.setExtra (st.eng.extra + n)

/-- N and V become free values (spec R235, R237, decision D12). -/
def State.drawNV (st : State) : State :=
  let n := st.draws
  (st.mapP fun p => setFlag bitV (Config.drawBit (n + 1)) (setFlag bitN (Config.drawBit n) p)).setDraws (n + 2)

/-- A, C, Z, N and V become free values (spec R235, R237, decision D13). -/
def State.drawAll (st : State) : State :=
  let n := st.draws
  let st := st.setA (Config.drawByte n)
  let st := st.mapP fun p => setFlag bitZ (Config.drawBit (n + 2)) (setFlag bitC (Config.drawBit (n + 1)) p)
  (st.setDraws (n + 3)).drawNV

/-! ### Step 3: captures (spec R166) -/

/-- Captures a byte into PC's high half: "writing the high half commits the value into PC immediately" (spec R35, R166). -/
def State.commitPc (st : State) (v : Byte) : State := (st.setNpch v).setPc (join v st.latch.npcl)

/-! ### Taking an interrupt, and returning (spec R168, R373 to R380) -/

/-- The vector address of an InterruptMode (spec R40, R374). NONE has none. -/
def Mode.vector (m : Mode) : Option Word :=
  match m with
  | .none => Option.none
  | .nmi => some Config.vectorNmi
  | .reset => some Config.vectorReset
  | .irq => some Config.vectorIrq

/-- `V`, the vector address of the list that runs: $FFFE for BRK whatever MODE holds, else MODE's (spec R105, R374). The INTR
list with MODE = NONE has no vector: `tick` faults before it drives such a cycle. -/
def State.vectorAddr (st : State) : Option Word :=
  if st.eng.list = .brk then some Config.vectorIrq else st.eng.mode.vector

/-- Hardware interrupt entry begins: the INTR list replaces the fetched opcode's list, and PC goes back to the address of the
discarded opcode, the return address (spec R168, R373). The list then pushes PCH, PCL and the status byte and reads the
vector (R376). -/
def State.beginEntry (st : State) : State :=
  ((st.setList .intr).setInstr .intr).setPc (st.regs.pc - 1#16)

/-- The pushed status byte: B is 1 from PHP and BRK, 0 from hardware entry (spec R175, R377). -/
def pushedStatus (l : ListName) (p : Byte) : Byte := if l = .intr then pushedByEntry p else pushedByInstr p

/-- After the status byte of a BRK or INTR entry is driven: I is set and D cleared (spec R378). PHP changes nothing. -/
def State.afterStatusPush (st : State) : State :=
  if st.eng.list = .brk ∨ st.eng.list = .intr then st.mapP enteredStatus else st

/-- The return's pull of P: all eight bits from the bus, I and D among them (spec R28, R307, R380). -/
def State.pullStatus (st : State) (v : Byte) : State := st.setP v

end Sys2Proof.Machine
end

