-- ==== Sys2Proof/Machine/Operands.lean ====
section
/-!
DEFINITION. Every operand form: the address each address-source tag drives and the latch it updates (spec R105), operand assembly
(R101), and the effective address of each list as a function of the operand bytes (R101, R114 to R126), which the statements
use.
-/

namespace Sys2Proof.Machine

/-- A zero-page address `$00:b` (spec R101). -/
def zpAddr (b : Byte) : Word := join Config.zeroPage b

/-- A stack address `$01:b` (spec R23). -/
def stackAddr (b : Byte) : Word := join Config.stackPage b

/-- A base address plus an index, with carry into the high byte, modulo 2^16 (spec R105). -/
def indexed (base : Word) (i : Byte) : Word := base + i.setWidth 16

/-- The target of a taken branch: `trunc_16(PC + sext_16(rr))` (spec R101, R167). -/
def branchTarget (next : Word) (rr : Byte) : Word := next + rr.signExtend 16

/-- `AH:AL` (spec R32). -/
def State.absBase (st : State) : Word := join st.latch.ah st.latch.al

/-- Drives an indexed address and writes it to EAH:EAL (spec R33, R105). -/
def State.driveIndexed (st : State) (a : Word) : State := ((st.setAddr a).setEal (loByte a)).setEah (hiByte a)

/-- Drives the address of a tag, with the tag's latch update (spec R105). The vector tags have an address only where
`vectorAddr` gives one: `tick` faults before it drives a vector cycle without one. -/
def State.driveAddress (st : State) (t : AddrTag) : State :=
  match t with
  | .pc => st.setAddr st.regs.pc
  | .pcInc => (st.setAddr st.regs.pc).setPc (st.regs.pc + 1#16)
  | .abs => st.setAddr st.absBase
  | .absX => st.driveIndexed (indexed st.absBase st.regs.x)
  | .absY => st.driveIndexed (indexed st.absBase st.regs.y)
  | .absXP1 => st.driveIndexed (indexed st.absBase st.regs.x + 1#16)
  | .absInc => ((st.setAddr st.absBase).setAl (loByte (st.absBase + 1#16))).setAh (hiByte (st.absBase + 1#16))
  | .zp => st.setAddr (zpAddr st.latch.zp)
  | .zpInc => (st.setAddr (zpAddr st.latch.zp)).setZp (st.latch.zp + 1#8)
  | .zpX => st.setAddr (zpAddr (st.latch.zp + st.regs.x))
  | .zpY => st.setAddr (zpAddr (st.latch.zp + st.regs.y))
  | .zpXP1 => st.setAddr (zpAddr (st.latch.zp + st.regs.x + 1#8))
  | .sp => st.setAddr (stackAddr st.regs.s)
  | .spPreinc => (st.setS (st.regs.s + 1#8)).setAddr (stackAddr (st.regs.s + 1#8))
  | .spPostdec => (st.setAddr (stackAddr st.regs.s)).setS (st.regs.s - 1#8)
  | .vecLo => st.setAddr (st.vectorAddr.getD 0#16)
  | .vecHi => st.setAddr (st.vectorAddr.getD 0#16 + 1#16)

/-! ### Operands as a program gives them

In the state between two instructions the opcode has been fetched and PC is the address of the first operand byte. -/

/-- The first operand byte: `imm`, `zz`, `rr` or `ll` (spec R100). -/
def State.operand1 (st : State) : Byte := st.peek st.regs.pc

/-- The second operand byte: `hh`, or the `rr` of BBR and BBS (spec R100). -/
def State.operand2 (st : State) : Byte := st.peek (st.regs.pc + 1#16)

/-- The absolute operand `hh:ll` (spec R101). -/
def State.absOperand (st : State) : Word := join st.operand2 st.operand1

/-- A pointer in the zero page: low byte at `$00:z`, high byte at `$00:trunc_8(z+1)` (spec R84, R121, R122). -/
def State.zpPointer (st : State) (z : Byte) : Word := join (st.peek (zpAddr (z + 1#8))) (st.peek (zpAddr z))

/-- The effective address of a list: the address of the operand it reads or writes (spec R101, R105). For the immediate form
it is the operand byte's own address (R200); a push writes at `$01:S` and a pull reads at `$01:trunc_8(S+1)` (R23). A list that
names no operand in memory has none. -/
def State.effAddr (st : State) (l : ListName) : Option Word :=
  match l with
  | .imm | .nopImm => some st.regs.pc
  | .zpR | .zpW | .zpRmw | .nopZp | .zpRel => some (zpAddr st.operand1)
  | .zpxR | .zpxW | .zpxRmw | .nopZpx => some (zpAddr (st.operand1 + st.regs.x))
  | .zpyR | .zpyW => some (zpAddr (st.operand1 + st.regs.y))
  | .absR | .absW | .absRmw | .nopAbs | .nop5c => some st.absOperand
  | .absxR | .absxW | .absxRmw => some (indexed st.absOperand st.regs.x)
  | .absyR | .absyW => some (indexed st.absOperand st.regs.y)
  | .izxR | .izxW => some (st.zpPointer (st.operand1 + st.regs.x))
  | .izyR | .izyW => some (indexed (st.zpPointer st.operand1) st.regs.y)
  | .izpR | .izpW => some (st.zpPointer st.operand1)
  | .push | .php => some (stackAddr st.regs.s)
  | .pull | .plp => some (stackAddr (st.regs.s + 1#8))
  | .imp | .rel | .jmpAbs | .jmpInd | .jmpIax | .jsr | .rts | .rti | .brk | .intr | .wai | .stp | .nop1 => none

/-- The index carried into the high byte: the base's high byte is not the effective address's (spec R172). -/
def State.pageCrossed (st : State) (l : ListName) : Bool :=
  match l with
  | .absxR => hiByte (indexed st.absOperand st.regs.x) != hiByte st.absOperand
  | .absyR => hiByte (indexed st.absOperand st.regs.y) != hiByte st.absOperand
  | .izyR => hiByte (indexed (st.zpPointer st.operand1) st.regs.y) != hiByte (st.zpPointer st.operand1)
  | _ => false

end Sys2Proof.Machine
end

