-- ==== Sys2Proof/Machine/Effects.lean ====
section
/-!
DEFINITION. What each mnemonic does: its deferred effect (`effect(I)`, spec R170), its internal operation (`internal(I)`, R173), its
store value (`store_value(I)`, R174) and, for a branch, its condition (R167, R290 to R301). One definition per mnemonic; the
tables that the engine calls stand at the end.
-/

namespace Sys2Proof.Machine

/-! ### Loads and transfers (spec R200 to R212) -/

/-- `A <- v; setNZ(A)`. -/
def State.putA (st : State) (v : Byte) : State := (st.setA v).mapP (setNZ v)
/-- `X <- v; setNZ(X)`. -/
def State.putX (st : State) (v : Byte) : State := (st.setX v).mapP (setNZ v)
/-- `Y <- v; setNZ(Y)`. -/
def State.putY (st : State) (v : Byte) : State := (st.setY v).mapP (setNZ v)

/-- LDA (spec R200). -/
def effectLda (st : State) : State := st.putA st.latch.d
/-- LDX (spec R201). -/
def effectLdx (st : State) : State := st.putX st.latch.d
/-- LDY (spec R202). -/
def effectLdy (st : State) : State := st.putY st.latch.d
/-- TAX (spec R207). -/
def effectTax (st : State) : State := st.putX st.regs.a
/-- TAY (spec R208). -/
def effectTay (st : State) : State := st.putY st.regs.a
/-- TXA (spec R209). -/
def effectTxa (st : State) : State := st.putA st.regs.x
/-- TYA (spec R210). -/
def effectTya (st : State) : State := st.putA st.regs.y
/-- TXS: the only transfer that sets no flag (spec R211). -/
def effectTxs (st : State) : State := st.setS st.regs.x
/-- TSX (spec R212). -/
def effectTsx (st : State) : State := st.putX st.regs.s

/-! ### Arithmetic, logic, compare and BIT (spec R231 to R242) -/

/-- ORA (spec R231). -/
def effectOra (st : State) : State := st.putA (st.regs.a ||| st.latch.d)
/-- AND (spec R232). -/
def effectAnd (st : State) : State := st.putA (st.regs.a &&& st.latch.d)
/-- EOR (spec R233). -/
def effectEor (st : State) : State := st.putA (st.regs.a ^^^ st.latch.d)

/-- A and N, V, Z, C from a binary sum (spec R234, R236). -/
def State.putSum (st : State) (r : Sum) : State :=
  (st.setA r.value).mapP fun p => setNZ r.value (setFlag bitV r.overflow (setFlag bitC r.carry p))

/-- A, C and Z from a decimal result; N and V are free values (spec R235, R237). -/
def State.putDecimal (st : State) (r : Byte × Bool) : State :=
  ((st.setA r.1).mapP fun p => setFlag bitZ (r.1 == 0#8) (setFlag bitC r.2 p)).drawNV

/-- The decimal form of ADC and SBC: one extra cycle (R242), then the BCD result, or free values where an operand is not BCD
(spec R235, R237). -/
def State.decimal (st : State) (op : Byte → Byte → Bool → Byte × Bool) : State :=
  let st := st.scheduleExtra 1
  if isBcd st.regs.a && isBcd st.latch.d then st.putDecimal (op st.regs.a st.latch.d (flag bitC st.regs.p))
  else st.drawAll

/-- ADC (spec R234, R235). -/
def effectAdc (st : State) : State :=
  if flag bitD st.regs.p then st.decimal addDecimal
  else st.putSum (addBinary st.regs.a st.latch.d (flag bitC st.regs.p))

/-- SBC (spec R236, R237). -/
def effectSbc (st : State) : State :=
  if flag bitD st.regs.p then st.decimal subDecimal
  else st.putSum (subBinary st.regs.a st.latch.d (flag bitC st.regs.p))

/-- CMP (spec R238). -/
def effectCmp (st : State) : State := st.mapP (compared st.regs.a st.latch.d)
/-- CPX (spec R239). -/
def effectCpx (st : State) : State := st.mapP (compared st.regs.x st.latch.d)
/-- CPY (spec R240). -/
def effectCpy (st : State) : State := st.mapP (compared st.regs.y st.latch.d)

/-- The status after BIT: Z from `A & M`; N and V from bits 7 and 6 of `M`, but in the immediate form (spec R241). -/
def bitStatus (immediate : Bool) (a m p : Byte) : Byte :=
  let p := setFlag bitZ (a &&& m == 0#8) p
  if immediate then p else setFlag bitV (m.getLsbD 6) (setFlag bitN (m.getLsbD 7) p)

/-- BIT (spec R241). The immediate form, $89, is the one on the IMM list. -/
def effectBit (l : ListName) (st : State) : State := st.mapP (bitStatus (l == .imm) st.regs.a st.latch.d)

/-! ### Shifts, increments and decrements on a register (spec R261 to R270) -/

/-- A shift or rotate of A (spec R260, register form). -/
def State.shiftA (st : State) (r : Byte × Bool) : State := (st.setA r.1).mapP (shifted r)

/-- ASL A (spec R261). -/
def effectAslA (st : State) : State := st.shiftA (shiftLeft st.regs.a)
/-- LSR A (spec R262). -/
def effectLsrA (st : State) : State := st.shiftA (shiftRight st.regs.a)
/-- ROL A (spec R263). -/
def effectRolA (st : State) : State := st.shiftA (rotateLeft st.regs.a (flag bitC st.regs.p))
/-- ROR A (spec R264). -/
def effectRorA (st : State) : State := st.shiftA (rotateRight st.regs.a (flag bitC st.regs.p))
/-- INC A (spec R265). -/
def effectIncA (st : State) : State := st.putA (st.regs.a + 1#8)
/-- DEC A (spec R266). -/
def effectDecA (st : State) : State := st.putA (st.regs.a - 1#8)
/-- INX (spec R267). -/
def effectInx (st : State) : State := st.putX (st.regs.x + 1#8)
/-- INY (spec R268). -/
def effectIny (st : State) : State := st.putY (st.regs.y + 1#8)
/-- DEX (spec R269). -/
def effectDex (st : State) : State := st.putX (st.regs.x - 1#8)
/-- DEY (spec R270). -/
def effectDey (st : State) : State := st.putY (st.regs.y - 1#8)

/-! ### Control flow, pulls and flags (spec R306, R334 to R344) -/

/-- RTS: PC moves past the pulled address (spec R306). -/
def effectRts (st : State) : State := st.setPc (st.regs.pc + 1#16)
/-- PLA (spec R334). -/
def effectPla (st : State) : State := st.putA st.latch.d
/-- PLX (spec R335). -/
def effectPlx (st : State) : State := st.putX st.latch.d
/-- PLY (spec R336). -/
def effectPly (st : State) : State := st.putY st.latch.d
/-- CLC (spec R338). -/
def effectClc (st : State) : State := st.mapP (setFlag bitC false)
/-- SEC (spec R339). -/
def effectSec (st : State) : State := st.mapP (setFlag bitC true)
/-- CLI (spec R340). -/
def effectCli (st : State) : State := st.mapP (setFlag bitI false)
/-- SEI (spec R341). -/
def effectSei (st : State) : State := st.mapP (setFlag bitI true)
/-- CLD (spec R342). -/
def effectCld (st : State) : State := st.mapP (setFlag bitD false)
/-- SED (spec R343). -/
def effectSed (st : State) : State := st.mapP (setFlag bitD true)
/-- CLV (spec R344). -/
def effectClv (st : State) : State := st.mapP (setFlag bitV false)

/-! ### Internal operations (spec R173, R261 to R274, R300, R301, R347) -/

/-- A shift or rotate of D (spec R260, memory form). -/
def State.shiftD (st : State) (r : Byte × Bool) : State := (st.setD r.1).mapP (shifted r)
/-- `D <- v; setNZ(D)`. -/
def State.putD (st : State) (v : Byte) : State := (st.setD v).mapP (setNZ v)

/-- ASL in memory (spec R261). -/
def internalAsl (st : State) : State := st.shiftD (shiftLeft st.latch.d)
/-- LSR in memory (spec R262). -/
def internalLsr (st : State) : State := st.shiftD (shiftRight st.latch.d)
/-- ROL in memory (spec R263). -/
def internalRol (st : State) : State := st.shiftD (rotateLeft st.latch.d (flag bitC st.regs.p))
/-- ROR in memory (spec R264). -/
def internalRor (st : State) : State := st.shiftD (rotateRight st.latch.d (flag bitC st.regs.p))
/-- INC in memory (spec R265). -/
def internalInc (st : State) : State := st.putD (st.latch.d + 1#8)
/-- DEC in memory (spec R266). -/
def internalDec (st : State) : State := st.putD (st.latch.d - 1#8)

/-- Z from `A & D`, the old memory value (spec R271, R272). -/
def State.testD (st : State) : State := st.mapP (setFlag bitZ (st.regs.a &&& st.latch.d == 0#8))

/-- TSB (spec R271). -/
def internalTsb (st : State) : State := st.testD.setD (st.latch.d ||| st.regs.a)
/-- TRB (spec R272). -/
def internalTrb (st : State) : State := st.testD.setD (st.latch.d &&& ~~~st.regs.a)
/-- RMBb (spec R273). -/
def internalRmb (b : Fin 8) (st : State) : State := st.setD (clearBit b st.latch.d)
/-- SMBb (spec R274). -/
def internalSmb (b : Fin 8) (st : State) : State := st.setD (setBit b st.latch.d)
/-- BBRb latches its decision: bit b is 0 (spec R300). -/
def internalBbr (b : Fin 8) (st : State) : State := st.setBd (!st.latch.d.getLsbD b.val)
/-- BBSb latches its decision: bit b is 1 (spec R301). -/
def internalBbs (b : Fin 8) (st : State) : State := st.setBd (st.latch.d.getLsbD b.val)

/-! ### Tables by mnemonic -/

/-- `effect(I)` (spec R170). The register forms of ASL, LSR, ROL, ROR, INC and DEC are the ones on the IMP list; their memory
forms have no deferred effect (R260). -/
def effect (m : Mnemonic) (l : ListName) (st : State) : State :=
  match m with
  | .lda => effectLda st | .ldx => effectLdx st | .ldy => effectLdy st
  | .tax => effectTax st | .tay => effectTay st | .txa => effectTxa st | .tya => effectTya st
  | .txs => effectTxs st | .tsx => effectTsx st
  | .ora => effectOra st | .and => effectAnd st | .eor => effectEor st
  | .adc => effectAdc st | .sbc => effectSbc st
  | .cmp => effectCmp st | .cpx => effectCpx st | .cpy => effectCpy st
  | .bit => effectBit l st
  | .asl => if l = .imp then effectAslA st else st
  | .lsr => if l = .imp then effectLsrA st else st
  | .rol => if l = .imp then effectRolA st else st
  | .ror => if l = .imp then effectRorA st else st
  | .inc => if l = .imp then effectIncA st else st
  | .dec => if l = .imp then effectDecA st else st
  | .inx => effectInx st | .iny => effectIny st | .dex => effectDex st | .dey => effectDey st
  | .rts => effectRts st
  | .pla => effectPla st | .plx => effectPlx st | .ply => effectPly st
  | .clc => effectClc st | .sec => effectSec st | .cli => effectCli st | .sei => effectSei st
  | .cld => effectCld st | .sed => effectSed st | .clv => effectClv st
  | .sta | .stx | .sty | .stz | .tsb | .trb | .rmb _ | .smb _ | .bbr _ | .bbs _
  | .bpl | .bmi | .bvc | .bvs | .bcc | .bcs | .bne | .beq | .bra
  | .jmp | .jsr | .rti | .brk | .pha | .phx | .phy | .php | .plp | .nop | .undefinedNop | .wai | .stp => st

/-- The deferred effect of what has completed; `effect(INTR)` is empty (spec R170, R376). -/
def Running.effect (r : Running) (st : State) : State :=
  match r with
  | .intr => st
  | .instr i => Machine.effect i.mnemonic i.list st

/-- `internal(I)` (spec R173). No other mnemonic has an INTERNAL cycle. WAI's does nothing here: under `nop` that is all, under
`waitForIrq` the wait is in step 7, and under `refuse` `tick` refuses before it (spec R347). -/
def internal (m : Mnemonic) (st : State) : State :=
  match m with
  | .asl => internalAsl st | .lsr => internalLsr st | .rol => internalRol st | .ror => internalRor st
  | .inc => internalInc st | .dec => internalDec st
  | .tsb => internalTsb st | .trb => internalTrb st
  | .rmb b => internalRmb b st | .smb b => internalSmb b st
  | .bbr b => internalBbr b st | .bbs b => internalBbs b st
  | .wai => st
  | .lda | .ldx | .ldy | .sta | .stx | .sty | .stz | .tax | .tay | .txa | .tya | .txs | .tsx
  | .ora | .and | .eor | .adc | .sbc | .cmp | .cpx | .cpy | .bit | .inx | .iny | .dex | .dey
  | .bpl | .bmi | .bvc | .bvs | .bcc | .bcs | .bne | .beq | .bra
  | .jmp | .jsr | .rts | .rti | .brk | .pha | .phx | .phy | .php | .pla | .plx | .ply | .plp
  | .clc | .sec | .cli | .sei | .cld | .sed | .clv | .nop | .undefinedNop | .stp => st

/-- `store_value(I)`: the byte a DATA write cycle drives (spec R174). The memory forms drive D, as the internal operation left
it; no other mnemonic has a DATA write cycle. -/
def storeValue (m : Mnemonic) (st : State) : Byte :=
  match m with
  | .sta | .pha => st.regs.a
  | .stx | .phx => st.regs.x
  | .sty | .phy => st.regs.y
  | .stz => 0x00#8
  | .asl | .lsr | .rol | .ror | .inc | .dec | .tsb | .trb | .rmb _ | .smb _ => st.latch.d
  | .lda | .ldx | .ldy | .tax | .tay | .txa | .tya | .txs | .tsx
  | .ora | .and | .eor | .adc | .sbc | .cmp | .cpx | .cpy | .bit | .inx | .iny | .dex | .dey
  | .bpl | .bmi | .bvc | .bvs | .bcc | .bcs | .bne | .beq | .bra | .bbr _ | .bbs _
  | .jmp | .jsr | .rts | .rti | .brk | .php | .pla | .plx | .ply | .plp
  | .clc | .sec | .cli | .sei | .cld | .sed | .clv | .nop | .undefinedNop | .wai | .stp => st.latch.d

/-- The condition of a relative branch, or none for a mnemonic that is no branch (spec R167, R290 to R301). -/
def branchCondition (m : Mnemonic) (st : State) : Option Bool :=
  match m with
  | .bpl => some (!flag bitN st.regs.p) | .bmi => some (flag bitN st.regs.p)
  | .bvc => some (!flag bitV st.regs.p) | .bvs => some (flag bitV st.regs.p)
  | .bcc => some (!flag bitC st.regs.p) | .bcs => some (flag bitC st.regs.p)
  | .bne => some (!flag bitZ st.regs.p) | .beq => some (flag bitZ st.regs.p)
  | .bra => some true
  | .bbr _ | .bbs _ => some st.latch.bd
  | .lda | .ldx | .ldy | .sta | .stx | .sty | .stz | .tax | .tay | .txa | .tya | .txs | .tsx
  | .ora | .and | .eor | .adc | .sbc | .cmp | .cpx | .cpy | .bit
  | .asl | .lsr | .rol | .ror | .inc | .dec | .inx | .iny | .dex | .dey | .tsb | .trb | .rmb _ | .smb _
  | .jmp | .jsr | .rts | .rti | .brk | .pha | .phx | .phy | .php | .pla | .plx | .ply | .plp
  | .clc | .sec | .cli | .sei | .cld | .sed | .clv | .nop | .undefinedNop | .wai | .stp => none

end Sys2Proof.Machine
end

