-- ==== Sys2Proof/Machine/Engine.lean ====
section
/-!
DEFINITION. The execution engine: the CPU's transition on one falling edge of PHI2 in its seven steps (spec R160 to R179), one cycle
(a falling edge, then a rising edge on which the devices answer, R74, R78), and the run of cycles that carries out one
instruction.
-/

namespace Sys2Proof.Machine

/-! ### Steps 2 to 5 -/

/-- Step 2: reset and IRQ sampling (spec R164, R165). -/
def State.sample (st : State) : State :=
  if st.bp.resb.level = false then (((st.setMode .reset).setIdx 0).setCycles 0).setPending none
  else if st.bp.irqb.level = false ∧ flag bitI st.regs.p = false ∧ st.eng.mode = .none then st.setMode .irq
  else st

/-- Branch evaluation, when an offset byte is captured with a branch pending: a taken branch adds the signed offset to PC and
schedules one extra cycle, and a second one when the high byte changes (spec R167, R290). -/
def State.branchEval (st : State) (offset : Byte) : State :=
  match st.eng.pending with
  | some (.instr i) =>
    match branchCondition i.mnemonic st with
    | some true =>
      let target := branchTarget st.regs.pc offset
      (st.setPc target).scheduleExtra (if hiByte target = hiByte st.regs.pc then 1 else 2)
    | _ => st
  | _ => st

/-- Step 3: the byte on DATA goes where the last cycle's data tag says; a write cycle captures nothing (spec R106, R166). -/
def State.capture (st : State) : State :=
  let v := st.dataBus
  match st.eng.prevRw, st.eng.prevTag with
  | .write, _ => st
  | .read, .opcode => st.setIr v
  | .read, .data => (st.setD v).branchEval v
  | .read, .p => st.pullStatus v
  | .read, .zpPtr => st.setZp v
  | .read, .al => st.setAl v
  | .read, .ah => st.setAh v
  | .read, .npcl => st.setNpcl v
  | .read, .npch => st.commitPc v
  | .read, .internal | .read, .null | .read, .halt | .read, .pcl | .read, .pch => st

/-- Step 4 where no interrupt is latched: the list of the opcode in IR; a list of one cycle is complete at once (spec R168,
R169). -/
def State.beginInstr (st : State) : State :=
  let i := decodeOpcode st.latch.ir
  let st := (st.setList i.list).setInstr (.instr i)
  if (cyclesOf i.list).length = 1 then (st.setIdx 0).setPending (some (.instr i)) else st

/-- Step 4: list selection, at the edge with IDX = 1 (spec R168). -/
def State.select (st : State) : State :=
  if st.eng.idx = 1 then (if st.eng.mode = .none then st.beginInstr else st.beginEntry) else st

/-- Step 5: the deferred effect of the instruction that has completed (spec R170). -/
def State.deferred (st : State) : State :=
  match st.eng.pending with
  | some r => if st.eng.idx = 0 then (r.effect st).setPending none else st
  | none => st

/-! ### Step 6: drive (spec R171 to R175, R178) -/

/-- The mnemonic whose store value and internal operation the list uses: INSTR's, and none for interrupt entry. -/
def Running.mnemonic (r : Running) : Option Mnemonic :=
  match r with
  | .intr => none
  | .instr i => some i.mnemonic

/-- The byte a write cycle drives on DATA (spec R171, R174, R175). The other tags stand in no write cycle of the tables. -/
def State.writeByte (st : State) (t : DataTag) : Byte :=
  match t with
  | .data => match st.eng.instr.mnemonic with
    | some m => storeValue m st
    | none => st.dataBus
  | .p => pushedStatus st.eng.list st.regs.p
  | .pcl => loByte st.regs.pc
  | .pch => hiByte st.regs.pc
  | .opcode | .zpPtr | .al | .ah | .internal | .npcl | .npch | .null | .halt => st.dataBus

/-- The data of a cycle: a write cycle drives DATA, and the status push then changes I and D; an INTERNAL cycle runs the
instruction's internal operation; a HALT cycle stops the engine (spec R171, R173, R178, R378). -/
def State.driveData (st : State) (c : Cycle) : State :=
  match c.rw, c.data with
  | .write, .p => (st.setData (st.writeByte .p)).afterStatusPush
  | .write, t => st.setData (st.writeByte t)
  | .read, .internal => match st.eng.instr.mnemonic with
    | some m => internal m st
    | none => st
  | .read, .halt => st.setStopped true
  | .read, _ => st

/-- The page-cross penalty of the indexed read lists (spec R172). -/
def State.penalty (st : State) (c : Cycle) : State :=
  if (st.eng.list = .absxR ∨ st.eng.list = .absyR ∨ st.eng.list = .izyR) ∧ c.data = .data ∧ c.rw = .read
      ∧ st.latch.eah ≠ st.latch.ah then st.scheduleExtra 1
  else st

/-- Step 6: the address with its latch update, the control lines, the data, the penalty, and PREV (spec R171). -/
def State.drive (st : State) (c : Cycle) : State :=
  let st := st.driveAddress c.addr
  let st := st.setLines (c.rw == .read) c.sync c.vpb c.mlb
  let st := st.driveData c
  let st := st.penalty c
  st.setPrev c.data c.rw

/-! ### Step 7: advance (spec R176, R177, R347) -/

/-- WAI waits at its INTERNAL cycle: only under `waitForIrq`, while IRQB is not asserted (spec R347). -/
def State.waiting (st : State) : Bool :=
  decide (st.eng.list = .wai) && st.eng.idx == 2 && decide (st.waiSemantics = .waitForIrq) && st.bp.irqb.level

/-- Step 7: the next cycle; at the end of the list the instruction is pending and MODE is cleared unless reset is asserted
(spec R176, R177). -/
def State.advance (st : State) : State :=
  if st.eng.idx = 0 then st.setIdx 1
  else if st.waiting then st
  else if st.eng.idx + 1 = (cyclesOf st.eng.list).length then
    let st := (st.setIdx 0).setPending (some st.eng.instr)
    if st.bp.resb.level then st.setMode .none else st
  else st.setIdx (st.eng.idx + 1)

/-- One more processed edge is counted (spec R48). -/
def State.count (st : State) : State := st.setCycles (st.eng.cycles + 1)

/-! ### One edge and one cycle -/

/-- Steps 6 and 7 with the cycle at IDX. LIST without a cycle there, or a vector cycle without a vector, is a defect of the
tables, which a model "must report ... to the host rather than continue" (spec C7, M9, R370); WAI's INTERNAL cycle under `refuse`
is where a model must stop (R347). -/
def State.runCycle (st : State) : Outcome :=
  match (cyclesOf st.eng.list)[st.eng.idx]? with
  | none => .fault .tableDefect
  | some c =>
    if (c.addr = .vecLo ∨ c.addr = .vecHi) ∧ st.vectorAddr = none then .fault .noVector
    else if st.eng.instr = .instr .wai ∧ c.data = .internal ∧ st.waiSemantics = .refuse then .refused .waiExecuted
    else .next (st.drive c).advance.count

/-- A processed edge: step 1 consumes a pending extra cycle and does nothing else (spec R163); otherwise steps 2 to 7 run. -/
def State.tick (st : State) : Outcome :=
  if 0 < st.eng.extra then .next (st.setExtra (st.eng.extra - 1)).count
  else st.sample.capture.select.deferred.runCycle

/-- The CPU's part in a falling edge of PHI2: ignored while RDY is false, and while stopped unless RESB is asserted, which
re-arms the CPU on that same edge (spec R161). -/
def State.cpuEdge (st : State) : Outcome :=
  if st.bp.rdy.level = false then .next st
  else if st.eng.stopped = true ∧ st.bp.resb.level = true then .next st
  else (st.setStopped false).tick

/-- PHI2 falls: only an actual transition is an edge (spec R62, R74). -/
def State.clockFalls (st : State) : Outcome :=
  if st.bp.phi2.level then (st.setPhi2 false).cpuEdge else .next st

/-- PHI2 rises: the CPU does nothing, the devices answer (spec R74, R78). -/
def State.clockRises (st : State) : State := (st.setPhi2 true).deviceEdge

/-- One cycle: the environment acts, PHI2 falls, PHI2 rises (spec R73, R74). -/
def State.cycle (st : State) : Outcome :=
  match st.takeInput.clockFalls with
  | .next t => .next t.clockRises
  | .fault f => .fault f
  | .refused r => .refused r

/-! ### One instruction -/

/-- An opcode has been fetched and nothing of its instruction has run: the next processed edge is its selection edge (spec
R160), and no extra cycle is pending. -/
def State.fetched (st : State) : Bool :=
  st.eng.idx == 1 && st.eng.extra == 0 && decide (st.eng.prevTag = .opcode) && decide (st.eng.prevRw = .read)

/-- A run of cycles pauses after a cycle when the next opcode has been fetched and no extra cycle is pending, when the engine
has stopped, or when the cycle changed neither IDX nor EXTRA, because the edge was ignored or WAI waits. -/
def pauses (before after : State) : Bool :=
  after.eng.stopped || (after.eng.idx == 1 && after.eng.extra == 0)
    || (after.eng.idx == before.eng.idx && after.eng.extra == before.eng.extra)

/-- Runs cycles until the run pauses, at most `fuel` of them. -/
def runCycles (fuel : Nat) (st : State) : Outcome :=
  match fuel with
  | 0 => .next st
  | fuel + 1 =>
    match st.cycle with
    | .next t => if pauses st t then .next t else runCycles fuel t
    | .fault f => .fault f
    | .refused r => .refused r

/-- More cycles than any instruction takes from its selection edge on: the longest list has 8, and at most 3 extra cycles are
scheduled on the way. `extra` is what is pending already. -/
def runFuel (st : State) : Nat := st.eng.extra + 12

/-- Runs on from any state to where the run pauses. -/
def resume (st : State) : Outcome := runCycles (runFuel st) st

/-- The state in which the opcode of `i` has just been fetched: it stands on the data bus, and the next edge captures it. In a
state where `i` has been fetched this changes nothing. -/
def State.present (st : State) (i : Instr) : State := ((st.setData i.opcode).setIdx 1).setPrev .opcode .read

/-- Runs instruction `i`: from its selection edge to the boundary edge of the next instruction, on which its deferred effect
runs, its branch is evaluated and the next opcode is fetched, and through the extra cycles that follow (spec R160, R168,
R170). -/
def runInstr (i : Instr) (st : State) : Outcome := resume (st.present i)

end Sys2Proof.Machine
end

