-- ==== Sys2Proof/Machine/Alu.lean ====
section
/-!
DEFINITION. Arithmetic, logic, compare and BIT: the meaning of each opcode (spec 42_alu.md, R230 to R242).
Each runs the engine from its own opcode; what the mnemonic does is in Machine/Effects.lean, the cycles of its list in Machine/Lists.lean.
-/

namespace Sys2Proof.Machine

/-! ### ORA (spec R231) -/

/-- $01 ORA ($zz,X): IZX_R, 6 cycles (spec R231). -/
def execOraIndX (s : State) : Outcome := runInstr .oraIndX s

/-- $05 ORA $zz: ZP_R, 3 cycles (spec R231). -/
def execOraZp (s : State) : Outcome := runInstr .oraZp s

/-- $09 ORA #$nn: IMM, 2 cycles (spec R231). -/
def execOraImm (s : State) : Outcome := runInstr .oraImm s

/-- $0D ORA $hhll: ABS_R, 4 cycles (spec R231). -/
def execOraAbs (s : State) : Outcome := runInstr .oraAbs s

/-- $11 ORA ($zz),Y: IZY_R, 5 cycles, +1 if page crossed (spec R231). -/
def execOraIndY (s : State) : Outcome := runInstr .oraIndY s

/-- $12 ORA ($zz): IZP_R, 5 cycles (spec R231). -/
def execOraInd (s : State) : Outcome := runInstr .oraInd s

/-- $15 ORA $zz,X: ZPX_R, 4 cycles (spec R231). -/
def execOraZpX (s : State) : Outcome := runInstr .oraZpX s

/-- $19 ORA $hhll,Y: ABSY_R, 4 cycles, +1 if page crossed (spec R231). -/
def execOraAbsY (s : State) : Outcome := runInstr .oraAbsY s

/-- $1D ORA $hhll,X: ABSX_R, 4 cycles, +1 if page crossed (spec R231). -/
def execOraAbsX (s : State) : Outcome := runInstr .oraAbsX s

/-! ### AND (spec R232) -/

/-- $21 AND ($zz,X): IZX_R, 6 cycles (spec R232). -/
def execAndIndX (s : State) : Outcome := runInstr .andIndX s

/-- $25 AND $zz: ZP_R, 3 cycles (spec R232). -/
def execAndZp (s : State) : Outcome := runInstr .andZp s

/-- $29 AND #$nn: IMM, 2 cycles (spec R232). -/
def execAndImm (s : State) : Outcome := runInstr .andImm s

/-- $2D AND $hhll: ABS_R, 4 cycles (spec R232). -/
def execAndAbs (s : State) : Outcome := runInstr .andAbs s

/-- $31 AND ($zz),Y: IZY_R, 5 cycles, +1 if page crossed (spec R232). -/
def execAndIndY (s : State) : Outcome := runInstr .andIndY s

/-- $32 AND ($zz): IZP_R, 5 cycles (spec R232). -/
def execAndInd (s : State) : Outcome := runInstr .andInd s

/-- $35 AND $zz,X: ZPX_R, 4 cycles (spec R232). -/
def execAndZpX (s : State) : Outcome := runInstr .andZpX s

/-- $39 AND $hhll,Y: ABSY_R, 4 cycles, +1 if page crossed (spec R232). -/
def execAndAbsY (s : State) : Outcome := runInstr .andAbsY s

/-- $3D AND $hhll,X: ABSX_R, 4 cycles, +1 if page crossed (spec R232). -/
def execAndAbsX (s : State) : Outcome := runInstr .andAbsX s

/-! ### EOR (spec R233) -/

/-- $41 EOR ($zz,X): IZX_R, 6 cycles (spec R233). -/
def execEorIndX (s : State) : Outcome := runInstr .eorIndX s

/-- $45 EOR $zz: ZP_R, 3 cycles (spec R233). -/
def execEorZp (s : State) : Outcome := runInstr .eorZp s

/-- $49 EOR #$nn: IMM, 2 cycles (spec R233). -/
def execEorImm (s : State) : Outcome := runInstr .eorImm s

/-- $4D EOR $hhll: ABS_R, 4 cycles (spec R233). -/
def execEorAbs (s : State) : Outcome := runInstr .eorAbs s

/-- $51 EOR ($zz),Y: IZY_R, 5 cycles, +1 if page crossed (spec R233). -/
def execEorIndY (s : State) : Outcome := runInstr .eorIndY s

/-- $52 EOR ($zz): IZP_R, 5 cycles (spec R233). -/
def execEorInd (s : State) : Outcome := runInstr .eorInd s

/-- $55 EOR $zz,X: ZPX_R, 4 cycles (spec R233). -/
def execEorZpX (s : State) : Outcome := runInstr .eorZpX s

/-- $59 EOR $hhll,Y: ABSY_R, 4 cycles, +1 if page crossed (spec R233). -/
def execEorAbsY (s : State) : Outcome := runInstr .eorAbsY s

/-- $5D EOR $hhll,X: ABSX_R, 4 cycles, +1 if page crossed (spec R233). -/
def execEorAbsX (s : State) : Outcome := runInstr .eorAbsX s

/-! ### ADC (spec R234, R235) -/

/-- $61 ADC ($zz,X): IZX_R, 6 cycles, +1 if D=1 (spec R234, R235). -/
def execAdcIndX (s : State) : Outcome := runInstr .adcIndX s

/-- $65 ADC $zz: ZP_R, 3 cycles, +1 if D=1 (spec R234, R235). -/
def execAdcZp (s : State) : Outcome := runInstr .adcZp s

/-- $69 ADC #$nn: IMM, 2 cycles, +1 if D=1 (spec R234, R235). -/
def execAdcImm (s : State) : Outcome := runInstr .adcImm s

/-- $6D ADC $hhll: ABS_R, 4 cycles, +1 if D=1 (spec R234, R235). -/
def execAdcAbs (s : State) : Outcome := runInstr .adcAbs s

/-- $71 ADC ($zz),Y: IZY_R, 5 cycles, +1 if page crossed, +1 if D=1 (spec R234, R235). -/
def execAdcIndY (s : State) : Outcome := runInstr .adcIndY s

/-- $72 ADC ($zz): IZP_R, 5 cycles, +1 if D=1 (spec R234, R235). -/
def execAdcInd (s : State) : Outcome := runInstr .adcInd s

/-- $75 ADC $zz,X: ZPX_R, 4 cycles, +1 if D=1 (spec R234, R235). -/
def execAdcZpX (s : State) : Outcome := runInstr .adcZpX s

/-- $79 ADC $hhll,Y: ABSY_R, 4 cycles, +1 if page crossed, +1 if D=1 (spec R234, R235). -/
def execAdcAbsY (s : State) : Outcome := runInstr .adcAbsY s

/-- $7D ADC $hhll,X: ABSX_R, 4 cycles, +1 if page crossed, +1 if D=1 (spec R234, R235). -/
def execAdcAbsX (s : State) : Outcome := runInstr .adcAbsX s

/-! ### SBC (spec R236, R237) -/

/-- $E1 SBC ($zz,X): IZX_R, 6 cycles, +1 if D=1 (spec R236, R237). -/
def execSbcIndX (s : State) : Outcome := runInstr .sbcIndX s

/-- $E5 SBC $zz: ZP_R, 3 cycles, +1 if D=1 (spec R236, R237). -/
def execSbcZp (s : State) : Outcome := runInstr .sbcZp s

/-- $E9 SBC #$nn: IMM, 2 cycles, +1 if D=1 (spec R236, R237). -/
def execSbcImm (s : State) : Outcome := runInstr .sbcImm s

/-- $ED SBC $hhll: ABS_R, 4 cycles, +1 if D=1 (spec R236, R237). -/
def execSbcAbs (s : State) : Outcome := runInstr .sbcAbs s

/-- $F1 SBC ($zz),Y: IZY_R, 5 cycles, +1 if page crossed, +1 if D=1 (spec R236, R237). -/
def execSbcIndY (s : State) : Outcome := runInstr .sbcIndY s

/-- $F2 SBC ($zz): IZP_R, 5 cycles, +1 if D=1 (spec R236, R237). -/
def execSbcInd (s : State) : Outcome := runInstr .sbcInd s

/-- $F5 SBC $zz,X: ZPX_R, 4 cycles, +1 if D=1 (spec R236, R237). -/
def execSbcZpX (s : State) : Outcome := runInstr .sbcZpX s

/-- $F9 SBC $hhll,Y: ABSY_R, 4 cycles, +1 if page crossed, +1 if D=1 (spec R236, R237). -/
def execSbcAbsY (s : State) : Outcome := runInstr .sbcAbsY s

/-- $FD SBC $hhll,X: ABSX_R, 4 cycles, +1 if page crossed, +1 if D=1 (spec R236, R237). -/
def execSbcAbsX (s : State) : Outcome := runInstr .sbcAbsX s

/-! ### CMP (spec R238) -/

/-- $C1 CMP ($zz,X): IZX_R, 6 cycles (spec R238). -/
def execCmpIndX (s : State) : Outcome := runInstr .cmpIndX s

/-- $C5 CMP $zz: ZP_R, 3 cycles (spec R238). -/
def execCmpZp (s : State) : Outcome := runInstr .cmpZp s

/-- $C9 CMP #$nn: IMM, 2 cycles (spec R238). -/
def execCmpImm (s : State) : Outcome := runInstr .cmpImm s

/-- $CD CMP $hhll: ABS_R, 4 cycles (spec R238). -/
def execCmpAbs (s : State) : Outcome := runInstr .cmpAbs s

/-- $D1 CMP ($zz),Y: IZY_R, 5 cycles, +1 if page crossed (spec R238). -/
def execCmpIndY (s : State) : Outcome := runInstr .cmpIndY s

/-- $D2 CMP ($zz): IZP_R, 5 cycles (spec R238). -/
def execCmpInd (s : State) : Outcome := runInstr .cmpInd s

/-- $D5 CMP $zz,X: ZPX_R, 4 cycles (spec R238). -/
def execCmpZpX (s : State) : Outcome := runInstr .cmpZpX s

/-- $D9 CMP $hhll,Y: ABSY_R, 4 cycles, +1 if page crossed (spec R238). -/
def execCmpAbsY (s : State) : Outcome := runInstr .cmpAbsY s

/-- $DD CMP $hhll,X: ABSX_R, 4 cycles, +1 if page crossed (spec R238). -/
def execCmpAbsX (s : State) : Outcome := runInstr .cmpAbsX s

/-! ### CPX (spec R239) -/

/-- $E0 CPX #$nn: IMM, 2 cycles (spec R239). -/
def execCpxImm (s : State) : Outcome := runInstr .cpxImm s

/-- $E4 CPX $zz: ZP_R, 3 cycles (spec R239). -/
def execCpxZp (s : State) : Outcome := runInstr .cpxZp s

/-- $EC CPX $hhll: ABS_R, 4 cycles (spec R239). -/
def execCpxAbs (s : State) : Outcome := runInstr .cpxAbs s

/-! ### CPY (spec R240) -/

/-- $C0 CPY #$nn: IMM, 2 cycles (spec R240). -/
def execCpyImm (s : State) : Outcome := runInstr .cpyImm s

/-- $C4 CPY $zz: ZP_R, 3 cycles (spec R240). -/
def execCpyZp (s : State) : Outcome := runInstr .cpyZp s

/-- $CC CPY $hhll: ABS_R, 4 cycles (spec R240). -/
def execCpyAbs (s : State) : Outcome := runInstr .cpyAbs s

/-! ### BIT (spec R241) -/

/-- $24 BIT $zz: ZP_R, 3 cycles (spec R241). -/
def execBitZp (s : State) : Outcome := runInstr .bitZp s

/-- $2C BIT $hhll: ABS_R, 4 cycles (spec R241). -/
def execBitAbs (s : State) : Outcome := runInstr .bitAbs s

/-- $34 BIT $zz,X: ZPX_R, 4 cycles (spec R241). -/
def execBitZpX (s : State) : Outcome := runInstr .bitZpX s

/-- $3C BIT $hhll,X: ABSX_R, 4 cycles, +1 if page crossed (spec R241). -/
def execBitAbsX (s : State) : Outcome := runInstr .bitAbsX s

/-- $89 BIT #$nn: IMM, 2 cycles (spec R241). -/
def execBitImm (s : State) : Outcome := runInstr .bitImm s

end Sys2Proof.Machine
end

