-- ==== Sys2Proof/Machine/ControlFlow.lean ====
section
/-!
DEFINITION. Branches, jumps, subroutines, returns and BRK: the meaning of each opcode (spec 44_control_flow.md, R290 to R308).
Each runs the engine from its own opcode; what the mnemonic does is in Machine/Effects.lean, the cycles of its list in Machine/Lists.lean.
-/

namespace Sys2Proof.Machine

/-! ### BPL (spec R291) -/

/-- $10 BPL $rr: REL, 2 cycles, +1 if taken, +1 more if taken to another page (spec R291). -/
def execBpl (s : State) : Outcome := runInstr .bpl s

/-! ### BMI (spec R292) -/

/-- $30 BMI $rr: REL, 2 cycles, +1 if taken, +1 more if taken to another page (spec R292). -/
def execBmi (s : State) : Outcome := runInstr .bmi s

/-! ### BVC (spec R293) -/

/-- $50 BVC $rr: REL, 2 cycles, +1 if taken, +1 more if taken to another page (spec R293). -/
def execBvc (s : State) : Outcome := runInstr .bvc s

/-! ### BVS (spec R294) -/

/-- $70 BVS $rr: REL, 2 cycles, +1 if taken, +1 more if taken to another page (spec R294). -/
def execBvs (s : State) : Outcome := runInstr .bvs s

/-! ### BCC (spec R295) -/

/-- $90 BCC $rr: REL, 2 cycles, +1 if taken, +1 more if taken to another page (spec R295). -/
def execBcc (s : State) : Outcome := runInstr .bcc s

/-! ### BCS (spec R296) -/

/-- $B0 BCS $rr: REL, 2 cycles, +1 if taken, +1 more if taken to another page (spec R296). -/
def execBcs (s : State) : Outcome := runInstr .bcs s

/-! ### BNE (spec R297) -/

/-- $D0 BNE $rr: REL, 2 cycles, +1 if taken, +1 more if taken to another page (spec R297). -/
def execBne (s : State) : Outcome := runInstr .bne s

/-! ### BEQ (spec R298) -/

/-- $F0 BEQ $rr: REL, 2 cycles, +1 if taken, +1 more if taken to another page (spec R298). -/
def execBeq (s : State) : Outcome := runInstr .beq s

/-! ### BRA (spec R299) -/

/-- $80 BRA $rr: REL, 2 cycles, +1 if taken, +1 more if taken to another page (spec R299). -/
def execBra (s : State) : Outcome := runInstr .bra s

/-! ### BBR0 (spec R300) -/

/-- $0F BBR0 $zz,$rr: ZP_REL, 5 cycles, +1 if taken, +1 more if taken to another page (spec R300). -/
def execBbr0 (s : State) : Outcome := runInstr .bbr0 s

/-! ### BBR1 (spec R300) -/

/-- $1F BBR1 $zz,$rr: ZP_REL, 5 cycles, +1 if taken, +1 more if taken to another page (spec R300). -/
def execBbr1 (s : State) : Outcome := runInstr .bbr1 s

/-! ### BBR2 (spec R300) -/

/-- $2F BBR2 $zz,$rr: ZP_REL, 5 cycles, +1 if taken, +1 more if taken to another page (spec R300). -/
def execBbr2 (s : State) : Outcome := runInstr .bbr2 s

/-! ### BBR3 (spec R300) -/

/-- $3F BBR3 $zz,$rr: ZP_REL, 5 cycles, +1 if taken, +1 more if taken to another page (spec R300). -/
def execBbr3 (s : State) : Outcome := runInstr .bbr3 s

/-! ### BBR4 (spec R300) -/

/-- $4F BBR4 $zz,$rr: ZP_REL, 5 cycles, +1 if taken, +1 more if taken to another page (spec R300). -/
def execBbr4 (s : State) : Outcome := runInstr .bbr4 s

/-! ### BBR5 (spec R300) -/

/-- $5F BBR5 $zz,$rr: ZP_REL, 5 cycles, +1 if taken, +1 more if taken to another page (spec R300). -/
def execBbr5 (s : State) : Outcome := runInstr .bbr5 s

/-! ### BBR6 (spec R300) -/

/-- $6F BBR6 $zz,$rr: ZP_REL, 5 cycles, +1 if taken, +1 more if taken to another page (spec R300). -/
def execBbr6 (s : State) : Outcome := runInstr .bbr6 s

/-! ### BBR7 (spec R300) -/

/-- $7F BBR7 $zz,$rr: ZP_REL, 5 cycles, +1 if taken, +1 more if taken to another page (spec R300). -/
def execBbr7 (s : State) : Outcome := runInstr .bbr7 s

/-! ### BBS0 (spec R301) -/

/-- $8F BBS0 $zz,$rr: ZP_REL, 5 cycles, +1 if taken, +1 more if taken to another page (spec R301). -/
def execBbs0 (s : State) : Outcome := runInstr .bbs0 s

/-! ### BBS1 (spec R301) -/

/-- $9F BBS1 $zz,$rr: ZP_REL, 5 cycles, +1 if taken, +1 more if taken to another page (spec R301). -/
def execBbs1 (s : State) : Outcome := runInstr .bbs1 s

/-! ### BBS2 (spec R301) -/

/-- $AF BBS2 $zz,$rr: ZP_REL, 5 cycles, +1 if taken, +1 more if taken to another page (spec R301). -/
def execBbs2 (s : State) : Outcome := runInstr .bbs2 s

/-! ### BBS3 (spec R301) -/

/-- $BF BBS3 $zz,$rr: ZP_REL, 5 cycles, +1 if taken, +1 more if taken to another page (spec R301). -/
def execBbs3 (s : State) : Outcome := runInstr .bbs3 s

/-! ### BBS4 (spec R301) -/

/-- $CF BBS4 $zz,$rr: ZP_REL, 5 cycles, +1 if taken, +1 more if taken to another page (spec R301). -/
def execBbs4 (s : State) : Outcome := runInstr .bbs4 s

/-! ### BBS5 (spec R301) -/

/-- $DF BBS5 $zz,$rr: ZP_REL, 5 cycles, +1 if taken, +1 more if taken to another page (spec R301). -/
def execBbs5 (s : State) : Outcome := runInstr .bbs5 s

/-! ### BBS6 (spec R301) -/

/-- $EF BBS6 $zz,$rr: ZP_REL, 5 cycles, +1 if taken, +1 more if taken to another page (spec R301). -/
def execBbs6 (s : State) : Outcome := runInstr .bbs6 s

/-! ### BBS7 (spec R301) -/

/-- $FF BBS7 $zz,$rr: ZP_REL, 5 cycles, +1 if taken, +1 more if taken to another page (spec R301). -/
def execBbs7 (s : State) : Outcome := runInstr .bbs7 s

/-! ### JMP (spec R302) -/

/-- $4C JMP $hhll: JMP_ABS, 3 cycles (spec R302). -/
def execJmpAbs (s : State) : Outcome := runInstr .jmpAbs s

/-- $6C JMP ($hhll): JMP_IND, 6 cycles (spec R303). -/
def execJmpInd (s : State) : Outcome := runInstr .jmpInd s

/-- $7C JMP ($hhll,X): JMP_IAX, 6 cycles (spec R304). -/
def execJmpIndX (s : State) : Outcome := runInstr .jmpIndX s

/-! ### JSR (spec R305) -/

/-- $20 JSR $hhll: JSR, 6 cycles (spec R305). -/
def execJsr (s : State) : Outcome := runInstr .jsr s

/-! ### RTS (spec R306) -/

/-- $60 RTS: RTS, 6 cycles (spec R306). -/
def execRts (s : State) : Outcome := runInstr .rts s

/-! ### RTI (spec R307) -/

/-- $40 RTI: RTI, 6 cycles (spec R307). -/
def execRti (s : State) : Outcome := runInstr .rti s

/-! ### BRK (spec R308) -/

/-- $00 BRK: BRK, 7 cycles (spec R308). -/
def execBrk (s : State) : Outcome := runInstr .brk s

end Sys2Proof.Machine
end

