-- ==== Sys2Proof/Machine/LoadStore.lean ====
section
/-!
DEFINITION. Loads, stores and register transfers: the meaning of each opcode (spec 41_load_store_transfer.md, R200 to R212).
Each runs the engine from its own opcode; what the mnemonic does is in Machine/Effects.lean, the cycles of its list in Machine/Lists.lean.
-/

namespace Sys2Proof.Machine

/-! ### LDA (spec R200) -/

/-- $A1 LDA ($zz,X): IZX_R, 6 cycles (spec R200). -/
def execLdaIndX (s : State) : Outcome := runInstr .ldaIndX s

/-- $A5 LDA $zz: ZP_R, 3 cycles (spec R200). -/
def execLdaZp (s : State) : Outcome := runInstr .ldaZp s

/-- $A9 LDA #$nn: IMM, 2 cycles (spec R200). -/
def execLdaImm (s : State) : Outcome := runInstr .ldaImm s

/-- $AD LDA $hhll: ABS_R, 4 cycles (spec R200). -/
def execLdaAbs (s : State) : Outcome := runInstr .ldaAbs s

/-- $B1 LDA ($zz),Y: IZY_R, 5 cycles, +1 if page crossed (spec R200). -/
def execLdaIndY (s : State) : Outcome := runInstr .ldaIndY s

/-- $B2 LDA ($zz): IZP_R, 5 cycles (spec R200). -/
def execLdaInd (s : State) : Outcome := runInstr .ldaInd s

/-- $B5 LDA $zz,X: ZPX_R, 4 cycles (spec R200). -/
def execLdaZpX (s : State) : Outcome := runInstr .ldaZpX s

/-- $B9 LDA $hhll,Y: ABSY_R, 4 cycles, +1 if page crossed (spec R200). -/
def execLdaAbsY (s : State) : Outcome := runInstr .ldaAbsY s

/-- $BD LDA $hhll,X: ABSX_R, 4 cycles, +1 if page crossed (spec R200). -/
def execLdaAbsX (s : State) : Outcome := runInstr .ldaAbsX s

/-! ### LDX (spec R201) -/

/-- $A2 LDX #$nn: IMM, 2 cycles (spec R201). -/
def execLdxImm (s : State) : Outcome := runInstr .ldxImm s

/-- $A6 LDX $zz: ZP_R, 3 cycles (spec R201). -/
def execLdxZp (s : State) : Outcome := runInstr .ldxZp s

/-- $AE LDX $hhll: ABS_R, 4 cycles (spec R201). -/
def execLdxAbs (s : State) : Outcome := runInstr .ldxAbs s

/-- $B6 LDX $zz,Y: ZPY_R, 4 cycles (spec R201). -/
def execLdxZpY (s : State) : Outcome := runInstr .ldxZpY s

/-- $BE LDX $hhll,Y: ABSY_R, 4 cycles, +1 if page crossed (spec R201). -/
def execLdxAbsY (s : State) : Outcome := runInstr .ldxAbsY s

/-! ### LDY (spec R202) -/

/-- $A0 LDY #$nn: IMM, 2 cycles (spec R202). -/
def execLdyImm (s : State) : Outcome := runInstr .ldyImm s

/-- $A4 LDY $zz: ZP_R, 3 cycles (spec R202). -/
def execLdyZp (s : State) : Outcome := runInstr .ldyZp s

/-- $AC LDY $hhll: ABS_R, 4 cycles (spec R202). -/
def execLdyAbs (s : State) : Outcome := runInstr .ldyAbs s

/-- $B4 LDY $zz,X: ZPX_R, 4 cycles (spec R202). -/
def execLdyZpX (s : State) : Outcome := runInstr .ldyZpX s

/-- $BC LDY $hhll,X: ABSX_R, 4 cycles, +1 if page crossed (spec R202). -/
def execLdyAbsX (s : State) : Outcome := runInstr .ldyAbsX s

/-! ### STA (spec R203) -/

/-- $81 STA ($zz,X): IZX_W, 6 cycles (spec R203). -/
def execStaIndX (s : State) : Outcome := runInstr .staIndX s

/-- $85 STA $zz: ZP_W, 3 cycles (spec R203). -/
def execStaZp (s : State) : Outcome := runInstr .staZp s

/-- $8D STA $hhll: ABS_W, 4 cycles (spec R203). -/
def execStaAbs (s : State) : Outcome := runInstr .staAbs s

/-- $91 STA ($zz),Y: IZY_W, 6 cycles (spec R203). -/
def execStaIndY (s : State) : Outcome := runInstr .staIndY s

/-- $92 STA ($zz): IZP_W, 5 cycles (spec R203). -/
def execStaInd (s : State) : Outcome := runInstr .staInd s

/-- $95 STA $zz,X: ZPX_W, 4 cycles (spec R203). -/
def execStaZpX (s : State) : Outcome := runInstr .staZpX s

/-- $99 STA $hhll,Y: ABSY_W, 5 cycles (spec R203). -/
def execStaAbsY (s : State) : Outcome := runInstr .staAbsY s

/-- $9D STA $hhll,X: ABSX_W, 5 cycles (spec R203). -/
def execStaAbsX (s : State) : Outcome := runInstr .staAbsX s

/-! ### STX (spec R204) -/

/-- $86 STX $zz: ZP_W, 3 cycles (spec R204). -/
def execStxZp (s : State) : Outcome := runInstr .stxZp s

/-- $8E STX $hhll: ABS_W, 4 cycles (spec R204). -/
def execStxAbs (s : State) : Outcome := runInstr .stxAbs s

/-- $96 STX $zz,Y: ZPY_W, 4 cycles (spec R204). -/
def execStxZpY (s : State) : Outcome := runInstr .stxZpY s

/-! ### STY (spec R205) -/

/-- $84 STY $zz: ZP_W, 3 cycles (spec R205). -/
def execStyZp (s : State) : Outcome := runInstr .styZp s

/-- $8C STY $hhll: ABS_W, 4 cycles (spec R205). -/
def execStyAbs (s : State) : Outcome := runInstr .styAbs s

/-- $94 STY $zz,X: ZPX_W, 4 cycles (spec R205). -/
def execStyZpX (s : State) : Outcome := runInstr .styZpX s

/-! ### STZ (spec R206) -/

/-- $64 STZ $zz: ZP_W, 3 cycles (spec R206). -/
def execStzZp (s : State) : Outcome := runInstr .stzZp s

/-- $74 STZ $zz,X: ZPX_W, 4 cycles (spec R206). -/
def execStzZpX (s : State) : Outcome := runInstr .stzZpX s

/-- $9C STZ $hhll: ABS_W, 4 cycles (spec R206). -/
def execStzAbs (s : State) : Outcome := runInstr .stzAbs s

/-- $9E STZ $hhll,X: ABSX_W, 5 cycles (spec R206). -/
def execStzAbsX (s : State) : Outcome := runInstr .stzAbsX s

/-! ### TAX (spec R207) -/

/-- $AA TAX: IMP, 2 cycles (spec R207). -/
def execTax (s : State) : Outcome := runInstr .tax s

/-! ### TAY (spec R208) -/

/-- $A8 TAY: IMP, 2 cycles (spec R208). -/
def execTay (s : State) : Outcome := runInstr .tay s

/-! ### TXA (spec R209) -/

/-- $8A TXA: IMP, 2 cycles (spec R209). -/
def execTxa (s : State) : Outcome := runInstr .txa s

/-! ### TYA (spec R210) -/

/-- $98 TYA: IMP, 2 cycles (spec R210). -/
def execTya (s : State) : Outcome := runInstr .tya s

/-! ### TXS (spec R211) -/

/-- $9A TXS: IMP, 2 cycles (spec R211). -/
def execTxs (s : State) : Outcome := runInstr .txs s

/-! ### TSX (spec R212) -/

/-- $BA TSX: IMP, 2 cycles (spec R212). -/
def execTsx (s : State) : Outcome := runInstr .tsx s

end Sys2Proof.Machine
end

