-- ==== Sys2Proof/Machine/Rmw.lean ====
section
/-!
DEFINITION. Shifts, rotates, increments, decrements and bit manipulation: the meaning of each opcode (spec 43_rmw_incdec_bits.md, R260 to R274).
Each runs the engine from its own opcode; what the mnemonic does is in Machine/Effects.lean, the cycles of its list in Machine/Lists.lean.
-/

namespace Sys2Proof.Machine

/-! ### ASL (spec R261) -/

/-- $06 ASL $zz: ZP_RMW, 5 cycles (spec R261). -/
def execAslZp (s : State) : Outcome := runInstr .aslZp s

/-- $0A ASL: IMP, 2 cycles (spec R261). -/
def execAslA (s : State) : Outcome := runInstr .aslA s

/-- $0E ASL $hhll: ABS_RMW, 6 cycles (spec R261). -/
def execAslAbs (s : State) : Outcome := runInstr .aslAbs s

/-- $16 ASL $zz,X: ZPX_RMW, 6 cycles (spec R261). -/
def execAslZpX (s : State) : Outcome := runInstr .aslZpX s

/-- $1E ASL $hhll,X: ABSX_RMW, 7 cycles (spec R261). -/
def execAslAbsX (s : State) : Outcome := runInstr .aslAbsX s

/-! ### LSR (spec R262) -/

/-- $46 LSR $zz: ZP_RMW, 5 cycles (spec R262). -/
def execLsrZp (s : State) : Outcome := runInstr .lsrZp s

/-- $4A LSR: IMP, 2 cycles (spec R262). -/
def execLsrA (s : State) : Outcome := runInstr .lsrA s

/-- $4E LSR $hhll: ABS_RMW, 6 cycles (spec R262). -/
def execLsrAbs (s : State) : Outcome := runInstr .lsrAbs s

/-- $56 LSR $zz,X: ZPX_RMW, 6 cycles (spec R262). -/
def execLsrZpX (s : State) : Outcome := runInstr .lsrZpX s

/-- $5E LSR $hhll,X: ABSX_RMW, 7 cycles (spec R262). -/
def execLsrAbsX (s : State) : Outcome := runInstr .lsrAbsX s

/-! ### ROL (spec R263) -/

/-- $26 ROL $zz: ZP_RMW, 5 cycles (spec R263). -/
def execRolZp (s : State) : Outcome := runInstr .rolZp s

/-- $2A ROL: IMP, 2 cycles (spec R263). -/
def execRolA (s : State) : Outcome := runInstr .rolA s

/-- $2E ROL $hhll: ABS_RMW, 6 cycles (spec R263). -/
def execRolAbs (s : State) : Outcome := runInstr .rolAbs s

/-- $36 ROL $zz,X: ZPX_RMW, 6 cycles (spec R263). -/
def execRolZpX (s : State) : Outcome := runInstr .rolZpX s

/-- $3E ROL $hhll,X: ABSX_RMW, 7 cycles (spec R263). -/
def execRolAbsX (s : State) : Outcome := runInstr .rolAbsX s

/-! ### ROR (spec R264) -/

/-- $66 ROR $zz: ZP_RMW, 5 cycles (spec R264). -/
def execRorZp (s : State) : Outcome := runInstr .rorZp s

/-- $6A ROR: IMP, 2 cycles (spec R264). -/
def execRorA (s : State) : Outcome := runInstr .rorA s

/-- $6E ROR $hhll: ABS_RMW, 6 cycles (spec R264). -/
def execRorAbs (s : State) : Outcome := runInstr .rorAbs s

/-- $76 ROR $zz,X: ZPX_RMW, 6 cycles (spec R264). -/
def execRorZpX (s : State) : Outcome := runInstr .rorZpX s

/-- $7E ROR $hhll,X: ABSX_RMW, 7 cycles (spec R264). -/
def execRorAbsX (s : State) : Outcome := runInstr .rorAbsX s

/-! ### INC (spec R265) -/

/-- $1A INC: IMP, 2 cycles (spec R265). -/
def execIncA (s : State) : Outcome := runInstr .incA s

/-- $E6 INC $zz: ZP_RMW, 5 cycles (spec R265). -/
def execIncZp (s : State) : Outcome := runInstr .incZp s

/-- $EE INC $hhll: ABS_RMW, 6 cycles (spec R265). -/
def execIncAbs (s : State) : Outcome := runInstr .incAbs s

/-- $F6 INC $zz,X: ZPX_RMW, 6 cycles (spec R265). -/
def execIncZpX (s : State) : Outcome := runInstr .incZpX s

/-- $FE INC $hhll,X: ABSX_RMW, 7 cycles (spec R265). -/
def execIncAbsX (s : State) : Outcome := runInstr .incAbsX s

/-! ### DEC (spec R266) -/

/-- $3A DEC: IMP, 2 cycles (spec R266). -/
def execDecA (s : State) : Outcome := runInstr .decA s

/-- $C6 DEC $zz: ZP_RMW, 5 cycles (spec R266). -/
def execDecZp (s : State) : Outcome := runInstr .decZp s

/-- $CE DEC $hhll: ABS_RMW, 6 cycles (spec R266). -/
def execDecAbs (s : State) : Outcome := runInstr .decAbs s

/-- $D6 DEC $zz,X: ZPX_RMW, 6 cycles (spec R266). -/
def execDecZpX (s : State) : Outcome := runInstr .decZpX s

/-- $DE DEC $hhll,X: ABSX_RMW, 7 cycles (spec R266). -/
def execDecAbsX (s : State) : Outcome := runInstr .decAbsX s

/-! ### INX (spec R267) -/

/-- $E8 INX: IMP, 2 cycles (spec R267). -/
def execInx (s : State) : Outcome := runInstr .inx s

/-! ### INY (spec R268) -/

/-- $C8 INY: IMP, 2 cycles (spec R268). -/
def execIny (s : State) : Outcome := runInstr .iny s

/-! ### DEX (spec R269) -/

/-- $CA DEX: IMP, 2 cycles (spec R269). -/
def execDex (s : State) : Outcome := runInstr .dex s

/-! ### DEY (spec R270) -/

/-- $88 DEY: IMP, 2 cycles (spec R270). -/
def execDey (s : State) : Outcome := runInstr .dey s

/-! ### TSB (spec R271) -/

/-- $04 TSB $zz: ZP_RMW, 5 cycles (spec R271). -/
def execTsbZp (s : State) : Outcome := runInstr .tsbZp s

/-- $0C TSB $hhll: ABS_RMW, 6 cycles (spec R271). -/
def execTsbAbs (s : State) : Outcome := runInstr .tsbAbs s

/-! ### TRB (spec R272) -/

/-- $14 TRB $zz: ZP_RMW, 5 cycles (spec R272). -/
def execTrbZp (s : State) : Outcome := runInstr .trbZp s

/-- $1C TRB $hhll: ABS_RMW, 6 cycles (spec R272). -/
def execTrbAbs (s : State) : Outcome := runInstr .trbAbs s

/-! ### RMB0 (spec R273) -/

/-- $07 RMB0 $zz: ZP_RMW, 5 cycles (spec R273). -/
def execRmb0 (s : State) : Outcome := runInstr .rmb0 s

/-! ### RMB1 (spec R273) -/

/-- $17 RMB1 $zz: ZP_RMW, 5 cycles (spec R273). -/
def execRmb1 (s : State) : Outcome := runInstr .rmb1 s

/-! ### RMB2 (spec R273) -/

/-- $27 RMB2 $zz: ZP_RMW, 5 cycles (spec R273). -/
def execRmb2 (s : State) : Outcome := runInstr .rmb2 s

/-! ### RMB3 (spec R273) -/

/-- $37 RMB3 $zz: ZP_RMW, 5 cycles (spec R273). -/
def execRmb3 (s : State) : Outcome := runInstr .rmb3 s

/-! ### RMB4 (spec R273) -/

/-- $47 RMB4 $zz: ZP_RMW, 5 cycles (spec R273). -/
def execRmb4 (s : State) : Outcome := runInstr .rmb4 s

/-! ### RMB5 (spec R273) -/

/-- $57 RMB5 $zz: ZP_RMW, 5 cycles (spec R273). -/
def execRmb5 (s : State) : Outcome := runInstr .rmb5 s

/-! ### RMB6 (spec R273) -/

/-- $67 RMB6 $zz: ZP_RMW, 5 cycles (spec R273). -/
def execRmb6 (s : State) : Outcome := runInstr .rmb6 s

/-! ### RMB7 (spec R273) -/

/-- $77 RMB7 $zz: ZP_RMW, 5 cycles (spec R273). -/
def execRmb7 (s : State) : Outcome := runInstr .rmb7 s

/-! ### SMB0 (spec R274) -/

/-- $87 SMB0 $zz: ZP_RMW, 5 cycles (spec R274). -/
def execSmb0 (s : State) : Outcome := runInstr .smb0 s

/-! ### SMB1 (spec R274) -/

/-- $97 SMB1 $zz: ZP_RMW, 5 cycles (spec R274). -/
def execSmb1 (s : State) : Outcome := runInstr .smb1 s

/-! ### SMB2 (spec R274) -/

/-- $A7 SMB2 $zz: ZP_RMW, 5 cycles (spec R274). -/
def execSmb2 (s : State) : Outcome := runInstr .smb2 s

/-! ### SMB3 (spec R274) -/

/-- $B7 SMB3 $zz: ZP_RMW, 5 cycles (spec R274). -/
def execSmb3 (s : State) : Outcome := runInstr .smb3 s

/-! ### SMB4 (spec R274) -/

/-- $C7 SMB4 $zz: ZP_RMW, 5 cycles (spec R274). -/
def execSmb4 (s : State) : Outcome := runInstr .smb4 s

/-! ### SMB5 (spec R274) -/

/-- $D7 SMB5 $zz: ZP_RMW, 5 cycles (spec R274). -/
def execSmb5 (s : State) : Outcome := runInstr .smb5 s

/-! ### SMB6 (spec R274) -/

/-- $E7 SMB6 $zz: ZP_RMW, 5 cycles (spec R274). -/
def execSmb6 (s : State) : Outcome := runInstr .smb6 s

/-! ### SMB7 (spec R274) -/

/-- $F7 SMB7 $zz: ZP_RMW, 5 cycles (spec R274). -/
def execSmb7 (s : State) : Outcome := runInstr .smb7 s

end Sys2Proof.Machine
end

