-- ==== Sys2Proof/Machine/System.lean ====
section
/-!
DEFINITION. Stack, flag, no-op and system instructions: the meaning of each opcode (spec 45_stack_flags_system.md, R330 to R348).
Each runs the engine from its own opcode; what the mnemonic does is in Machine/Effects.lean, the cycles of its list in Machine/Lists.lean.
-/

namespace Sys2Proof.Machine

/-! ### PHA (spec R330) -/

/-- $48 PHA: PUSH, 3 cycles (spec R330). -/
def execPha (s : State) : Outcome := runInstr .pha s

/-! ### PHX (spec R331) -/

/-- $DA PHX: PUSH, 3 cycles (spec R331). -/
def execPhx (s : State) : Outcome := runInstr .phx s

/-! ### PHY (spec R332) -/

/-- $5A PHY: PUSH, 3 cycles (spec R332). -/
def execPhy (s : State) : Outcome := runInstr .phy s

/-! ### PHP (spec R333) -/

/-- $08 PHP: PHP, 3 cycles (spec R333). -/
def execPhp (s : State) : Outcome := runInstr .php s

/-! ### PLA (spec R334) -/

/-- $68 PLA: PULL, 4 cycles (spec R334). -/
def execPla (s : State) : Outcome := runInstr .pla s

/-! ### PLX (spec R335) -/

/-- $FA PLX: PULL, 4 cycles (spec R335). -/
def execPlx (s : State) : Outcome := runInstr .plx s

/-! ### PLY (spec R336) -/

/-- $7A PLY: PULL, 4 cycles (spec R336). -/
def execPly (s : State) : Outcome := runInstr .ply s

/-! ### PLP (spec R337) -/

/-- $28 PLP: PLP, 4 cycles (spec R337). -/
def execPlp (s : State) : Outcome := runInstr .plp s

/-! ### CLC (spec R338) -/

/-- $18 CLC: IMP, 2 cycles (spec R338). -/
def execClc (s : State) : Outcome := runInstr .clc s

/-! ### SEC (spec R339) -/

/-- $38 SEC: IMP, 2 cycles (spec R339). -/
def execSec (s : State) : Outcome := runInstr .sec s

/-! ### CLI (spec R340) -/

/-- $58 CLI: IMP, 2 cycles (spec R340). -/
def execCli (s : State) : Outcome := runInstr .cli s

/-! ### SEI (spec R341) -/

/-- $78 SEI: IMP, 2 cycles (spec R341). -/
def execSei (s : State) : Outcome := runInstr .sei s

/-! ### CLD (spec R342) -/

/-- $D8 CLD: IMP, 2 cycles (spec R342). -/
def execCld (s : State) : Outcome := runInstr .cld s

/-! ### SED (spec R343) -/

/-- $F8 SED: IMP, 2 cycles (spec R343). -/
def execSed (s : State) : Outcome := runInstr .sed s

/-! ### CLV (spec R344) -/

/-- $B8 CLV: IMP, 2 cycles (spec R344). -/
def execClv (s : State) : Outcome := runInstr .clv s

/-! ### NOP (spec R345) -/

/-- $EA NOP: IMP, 2 cycles (spec R345). -/
def execNop (s : State) : Outcome := runInstr .nop s

/-! ### NOP* (spec R346) -/

/-- $02 NOP* #$nn: NOP_IMM, 2 cycles (spec R346). -/
def execUnd02 (s : State) : Outcome := runInstr .und02 s

/-- $03 NOP*: NOP1, 1 cycle (spec R346). -/
def execUnd03 (s : State) : Outcome := runInstr .und03 s

/-- $0B NOP*: NOP1, 1 cycle (spec R346). -/
def execUnd0B (s : State) : Outcome := runInstr .und0B s

/-- $13 NOP*: NOP1, 1 cycle (spec R346). -/
def execUnd13 (s : State) : Outcome := runInstr .und13 s

/-- $1B NOP*: NOP1, 1 cycle (spec R346). -/
def execUnd1B (s : State) : Outcome := runInstr .und1B s

/-- $22 NOP* #$nn: NOP_IMM, 2 cycles (spec R346). -/
def execUnd22 (s : State) : Outcome := runInstr .und22 s

/-- $23 NOP*: NOP1, 1 cycle (spec R346). -/
def execUnd23 (s : State) : Outcome := runInstr .und23 s

/-- $2B NOP*: NOP1, 1 cycle (spec R346). -/
def execUnd2B (s : State) : Outcome := runInstr .und2B s

/-- $33 NOP*: NOP1, 1 cycle (spec R346). -/
def execUnd33 (s : State) : Outcome := runInstr .und33 s

/-- $3B NOP*: NOP1, 1 cycle (spec R346). -/
def execUnd3B (s : State) : Outcome := runInstr .und3B s

/-- $42 NOP* #$nn: NOP_IMM, 2 cycles (spec R346). -/
def execUnd42 (s : State) : Outcome := runInstr .und42 s

/-- $43 NOP*: NOP1, 1 cycle (spec R346). -/
def execUnd43 (s : State) : Outcome := runInstr .und43 s

/-- $44 NOP* $zz: NOP_ZP, 3 cycles (spec R346). -/
def execUnd44 (s : State) : Outcome := runInstr .und44 s

/-- $4B NOP*: NOP1, 1 cycle (spec R346). -/
def execUnd4B (s : State) : Outcome := runInstr .und4B s

/-- $53 NOP*: NOP1, 1 cycle (spec R346). -/
def execUnd53 (s : State) : Outcome := runInstr .und53 s

/-- $54 NOP* $zz,X: NOP_ZPX, 4 cycles (spec R346). -/
def execUnd54 (s : State) : Outcome := runInstr .und54 s

/-- $5B NOP*: NOP1, 1 cycle (spec R346). -/
def execUnd5B (s : State) : Outcome := runInstr .und5B s

/-- $5C NOP* $hhll: NOP_5C, 8 cycles (spec R346). -/
def execUnd5C (s : State) : Outcome := runInstr .und5C s

/-- $62 NOP* #$nn: NOP_IMM, 2 cycles (spec R346). -/
def execUnd62 (s : State) : Outcome := runInstr .und62 s

/-- $63 NOP*: NOP1, 1 cycle (spec R346). -/
def execUnd63 (s : State) : Outcome := runInstr .und63 s

/-- $6B NOP*: NOP1, 1 cycle (spec R346). -/
def execUnd6B (s : State) : Outcome := runInstr .und6B s

/-- $73 NOP*: NOP1, 1 cycle (spec R346). -/
def execUnd73 (s : State) : Outcome := runInstr .und73 s

/-- $7B NOP*: NOP1, 1 cycle (spec R346). -/
def execUnd7B (s : State) : Outcome := runInstr .und7B s

/-- $82 NOP* #$nn: NOP_IMM, 2 cycles (spec R346). -/
def execUnd82 (s : State) : Outcome := runInstr .und82 s

/-- $83 NOP*: NOP1, 1 cycle (spec R346). -/
def execUnd83 (s : State) : Outcome := runInstr .und83 s

/-- $8B NOP*: NOP1, 1 cycle (spec R346). -/
def execUnd8B (s : State) : Outcome := runInstr .und8B s

/-- $93 NOP*: NOP1, 1 cycle (spec R346). -/
def execUnd93 (s : State) : Outcome := runInstr .und93 s

/-- $9B NOP*: NOP1, 1 cycle (spec R346). -/
def execUnd9B (s : State) : Outcome := runInstr .und9B s

/-- $A3 NOP*: NOP1, 1 cycle (spec R346). -/
def execUndA3 (s : State) : Outcome := runInstr .undA3 s

/-- $AB NOP*: NOP1, 1 cycle (spec R346). -/
def execUndAB (s : State) : Outcome := runInstr .undAB s

/-- $B3 NOP*: NOP1, 1 cycle (spec R346). -/
def execUndB3 (s : State) : Outcome := runInstr .undB3 s

/-- $BB NOP*: NOP1, 1 cycle (spec R346). -/
def execUndBB (s : State) : Outcome := runInstr .undBB s

/-- $C2 NOP* #$nn: NOP_IMM, 2 cycles (spec R346). -/
def execUndC2 (s : State) : Outcome := runInstr .undC2 s

/-- $C3 NOP*: NOP1, 1 cycle (spec R346). -/
def execUndC3 (s : State) : Outcome := runInstr .undC3 s

/-- $D3 NOP*: NOP1, 1 cycle (spec R346). -/
def execUndD3 (s : State) : Outcome := runInstr .undD3 s

/-- $D4 NOP* $zz,X: NOP_ZPX, 4 cycles (spec R346). -/
def execUndD4 (s : State) : Outcome := runInstr .undD4 s

/-- $DC NOP* $hhll: NOP_ABS, 4 cycles (spec R346). -/
def execUndDC (s : State) : Outcome := runInstr .undDC s

/-- $E2 NOP* #$nn: NOP_IMM, 2 cycles (spec R346). -/
def execUndE2 (s : State) : Outcome := runInstr .undE2 s

/-- $E3 NOP*: NOP1, 1 cycle (spec R346). -/
def execUndE3 (s : State) : Outcome := runInstr .undE3 s

/-- $EB NOP*: NOP1, 1 cycle (spec R346). -/
def execUndEB (s : State) : Outcome := runInstr .undEB s

/-- $F3 NOP*: NOP1, 1 cycle (spec R346). -/
def execUndF3 (s : State) : Outcome := runInstr .undF3 s

/-- $F4 NOP* $zz,X: NOP_ZPX, 4 cycles (spec R346). -/
def execUndF4 (s : State) : Outcome := runInstr .undF4 s

/-- $FB NOP*: NOP1, 1 cycle (spec R346). -/
def execUndFB (s : State) : Outcome := runInstr .undFB s

/-- $FC NOP* $hhll: NOP_ABS, 4 cycles (spec R346). -/
def execUndFC (s : State) : Outcome := runInstr .undFC s

/-! ### WAI (spec R347) -/

/-- $CB WAI: WAI, 3 cycles (spec R347). -/
def execWai (s : State) : Outcome := runInstr .wai s

/-! ### STP (spec R348) -/

/-- $DB STP: STP, 2 cycles (spec R348). -/
def execStp (s : State) : Outcome := runInstr .stp s

end Sys2Proof.Machine
end

