-- ==== Sys2Proof/Machine/Dispatch.lean ====
section
/-!
DEFINITION. From an instruction to its meaning: one arm per row of spec/opcode_table.json, each one call.
-/

namespace Sys2Proof.Machine

/-- What an instruction does, from the state in which its opcode has been fetched. -/
def exec (i : Instr) (s : State) : Host.Outcome State Fault Refusal :=
  match i with
  -- Loads, stores and register transfers
  | .ldaIndX => Sys2Proof.Machine.execLdaIndX s
  | .ldaZp => Sys2Proof.Machine.execLdaZp s
  | .ldaImm => Sys2Proof.Machine.execLdaImm s
  | .ldaAbs => Sys2Proof.Machine.execLdaAbs s
  | .ldaIndY => Sys2Proof.Machine.execLdaIndY s
  | .ldaInd => Sys2Proof.Machine.execLdaInd s
  | .ldaZpX => Sys2Proof.Machine.execLdaZpX s
  | .ldaAbsY => Sys2Proof.Machine.execLdaAbsY s
  | .ldaAbsX => Sys2Proof.Machine.execLdaAbsX s
  | .ldxImm => Sys2Proof.Machine.execLdxImm s
  | .ldxZp => Sys2Proof.Machine.execLdxZp s
  | .ldxAbs => Sys2Proof.Machine.execLdxAbs s
  | .ldxZpY => Sys2Proof.Machine.execLdxZpY s
  | .ldxAbsY => Sys2Proof.Machine.execLdxAbsY s
  | .ldyImm => Sys2Proof.Machine.execLdyImm s
  | .ldyZp => Sys2Proof.Machine.execLdyZp s
  | .ldyAbs => Sys2Proof.Machine.execLdyAbs s
  | .ldyZpX => Sys2Proof.Machine.execLdyZpX s
  | .ldyAbsX => Sys2Proof.Machine.execLdyAbsX s
  | .staIndX => Sys2Proof.Machine.execStaIndX s
  | .staZp => Sys2Proof.Machine.execStaZp s
  | .staAbs => Sys2Proof.Machine.execStaAbs s
  | .staIndY => Sys2Proof.Machine.execStaIndY s
  | .staInd => Sys2Proof.Machine.execStaInd s
  | .staZpX => Sys2Proof.Machine.execStaZpX s
  | .staAbsY => Sys2Proof.Machine.execStaAbsY s
  | .staAbsX => Sys2Proof.Machine.execStaAbsX s
  | .stxZp => Sys2Proof.Machine.execStxZp s
  | .stxAbs => Sys2Proof.Machine.execStxAbs s
  | .stxZpY => Sys2Proof.Machine.execStxZpY s
  | .styZp => Sys2Proof.Machine.execStyZp s
  | .styAbs => Sys2Proof.Machine.execStyAbs s
  | .styZpX => Sys2Proof.Machine.execStyZpX s
  | .stzZp => Sys2Proof.Machine.execStzZp s
  | .stzZpX => Sys2Proof.Machine.execStzZpX s
  | .stzAbs => Sys2Proof.Machine.execStzAbs s
  | .stzAbsX => Sys2Proof.Machine.execStzAbsX s
  | .tax => Sys2Proof.Machine.execTax s
  | .tay => Sys2Proof.Machine.execTay s
  | .txa => Sys2Proof.Machine.execTxa s
  | .tya => Sys2Proof.Machine.execTya s
  | .txs => Sys2Proof.Machine.execTxs s
  | .tsx => Sys2Proof.Machine.execTsx s
  -- Arithmetic, logic, compare and BIT
  | .oraIndX => Sys2Proof.Machine.execOraIndX s
  | .oraZp => Sys2Proof.Machine.execOraZp s
  | .oraImm => Sys2Proof.Machine.execOraImm s
  | .oraAbs => Sys2Proof.Machine.execOraAbs s
  | .oraIndY => Sys2Proof.Machine.execOraIndY s
  | .oraInd => Sys2Proof.Machine.execOraInd s
  | .oraZpX => Sys2Proof.Machine.execOraZpX s
  | .oraAbsY => Sys2Proof.Machine.execOraAbsY s
  | .oraAbsX => Sys2Proof.Machine.execOraAbsX s
  | .andIndX => Sys2Proof.Machine.execAndIndX s
  | .andZp => Sys2Proof.Machine.execAndZp s
  | .andImm => Sys2Proof.Machine.execAndImm s
  | .andAbs => Sys2Proof.Machine.execAndAbs s
  | .andIndY => Sys2Proof.Machine.execAndIndY s
  | .andInd => Sys2Proof.Machine.execAndInd s
  | .andZpX => Sys2Proof.Machine.execAndZpX s
  | .andAbsY => Sys2Proof.Machine.execAndAbsY s
  | .andAbsX => Sys2Proof.Machine.execAndAbsX s
  | .eorIndX => Sys2Proof.Machine.execEorIndX s
  | .eorZp => Sys2Proof.Machine.execEorZp s
  | .eorImm => Sys2Proof.Machine.execEorImm s
  | .eorAbs => Sys2Proof.Machine.execEorAbs s
  | .eorIndY => Sys2Proof.Machine.execEorIndY s
  | .eorInd => Sys2Proof.Machine.execEorInd s
  | .eorZpX => Sys2Proof.Machine.execEorZpX s
  | .eorAbsY => Sys2Proof.Machine.execEorAbsY s
  | .eorAbsX => Sys2Proof.Machine.execEorAbsX s
  | .adcIndX => Sys2Proof.Machine.execAdcIndX s
  | .adcZp => Sys2Proof.Machine.execAdcZp s
  | .adcImm => Sys2Proof.Machine.execAdcImm s
  | .adcAbs => Sys2Proof.Machine.execAdcAbs s
  | .adcIndY => Sys2Proof.Machine.execAdcIndY s
  | .adcInd => Sys2Proof.Machine.execAdcInd s
  | .adcZpX => Sys2Proof.Machine.execAdcZpX s
  | .adcAbsY => Sys2Proof.Machine.execAdcAbsY s
  | .adcAbsX => Sys2Proof.Machine.execAdcAbsX s
  | .sbcIndX => Sys2Proof.Machine.execSbcIndX s
  | .sbcZp => Sys2Proof.Machine.execSbcZp s
  | .sbcImm => Sys2Proof.Machine.execSbcImm s
  | .sbcAbs => Sys2Proof.Machine.execSbcAbs s
  | .sbcIndY => Sys2Proof.Machine.execSbcIndY s
  | .sbcInd => Sys2Proof.Machine.execSbcInd s
  | .sbcZpX => Sys2Proof.Machine.execSbcZpX s
  | .sbcAbsY => Sys2Proof.Machine.execSbcAbsY s
  | .sbcAbsX => Sys2Proof.Machine.execSbcAbsX s
  | .cmpIndX => Sys2Proof.Machine.execCmpIndX s
  | .cmpZp => Sys2Proof.Machine.execCmpZp s
  | .cmpImm => Sys2Proof.Machine.execCmpImm s
  | .cmpAbs => Sys2Proof.Machine.execCmpAbs s
  | .cmpIndY => Sys2Proof.Machine.execCmpIndY s
  | .cmpInd => Sys2Proof.Machine.execCmpInd s
  | .cmpZpX => Sys2Proof.Machine.execCmpZpX s
  | .cmpAbsY => Sys2Proof.Machine.execCmpAbsY s
  | .cmpAbsX => Sys2Proof.Machine.execCmpAbsX s
  | .cpxImm => Sys2Proof.Machine.execCpxImm s
  | .cpxZp => Sys2Proof.Machine.execCpxZp s
  | .cpxAbs => Sys2Proof.Machine.execCpxAbs s
  | .cpyImm => Sys2Proof.Machine.execCpyImm s
  | .cpyZp => Sys2Proof.Machine.execCpyZp s
  | .cpyAbs => Sys2Proof.Machine.execCpyAbs s
  | .bitZp => Sys2Proof.Machine.execBitZp s
  | .bitAbs => Sys2Proof.Machine.execBitAbs s
  | .bitZpX => Sys2Proof.Machine.execBitZpX s
  | .bitAbsX => Sys2Proof.Machine.execBitAbsX s
  | .bitImm => Sys2Proof.Machine.execBitImm s
  -- Shifts, rotates, increments, decrements and bit manipulation
  | .aslZp => Sys2Proof.Machine.execAslZp s
  | .aslA => Sys2Proof.Machine.execAslA s
  | .aslAbs => Sys2Proof.Machine.execAslAbs s
  | .aslZpX => Sys2Proof.Machine.execAslZpX s
  | .aslAbsX => Sys2Proof.Machine.execAslAbsX s
  | .lsrZp => Sys2Proof.Machine.execLsrZp s
  | .lsrA => Sys2Proof.Machine.execLsrA s
  | .lsrAbs => Sys2Proof.Machine.execLsrAbs s
  | .lsrZpX => Sys2Proof.Machine.execLsrZpX s
  | .lsrAbsX => Sys2Proof.Machine.execLsrAbsX s
  | .rolZp => Sys2Proof.Machine.execRolZp s
  | .rolA => Sys2Proof.Machine.execRolA s
  | .rolAbs => Sys2Proof.Machine.execRolAbs s
  | .rolZpX => Sys2Proof.Machine.execRolZpX s
  | .rolAbsX => Sys2Proof.Machine.execRolAbsX s
  | .rorZp => Sys2Proof.Machine.execRorZp s
  | .rorA => Sys2Proof.Machine.execRorA s
  | .rorAbs => Sys2Proof.Machine.execRorAbs s
  | .rorZpX => Sys2Proof.Machine.execRorZpX s
  | .rorAbsX => Sys2Proof.Machine.execRorAbsX s
  | .incA => Sys2Proof.Machine.execIncA s
  | .incZp => Sys2Proof.Machine.execIncZp s
  | .incAbs => Sys2Proof.Machine.execIncAbs s
  | .incZpX => Sys2Proof.Machine.execIncZpX s
  | .incAbsX => Sys2Proof.Machine.execIncAbsX s
  | .decA => Sys2Proof.Machine.execDecA s
  | .decZp => Sys2Proof.Machine.execDecZp s
  | .decAbs => Sys2Proof.Machine.execDecAbs s
  | .decZpX => Sys2Proof.Machine.execDecZpX s
  | .decAbsX => Sys2Proof.Machine.execDecAbsX s
  | .inx => Sys2Proof.Machine.execInx s
  | .iny => Sys2Proof.Machine.execIny s
  | .dex => Sys2Proof.Machine.execDex s
  | .dey => Sys2Proof.Machine.execDey s
  | .tsbZp => Sys2Proof.Machine.execTsbZp s
  | .tsbAbs => Sys2Proof.Machine.execTsbAbs s
  | .trbZp => Sys2Proof.Machine.execTrbZp s
  | .trbAbs => Sys2Proof.Machine.execTrbAbs s
  | .rmb0 => Sys2Proof.Machine.execRmb0 s
  | .rmb1 => Sys2Proof.Machine.execRmb1 s
  | .rmb2 => Sys2Proof.Machine.execRmb2 s
  | .rmb3 => Sys2Proof.Machine.execRmb3 s
  | .rmb4 => Sys2Proof.Machine.execRmb4 s
  | .rmb5 => Sys2Proof.Machine.execRmb5 s
  | .rmb6 => Sys2Proof.Machine.execRmb6 s
  | .rmb7 => Sys2Proof.Machine.execRmb7 s
  | .smb0 => Sys2Proof.Machine.execSmb0 s
  | .smb1 => Sys2Proof.Machine.execSmb1 s
  | .smb2 => Sys2Proof.Machine.execSmb2 s
  | .smb3 => Sys2Proof.Machine.execSmb3 s
  | .smb4 => Sys2Proof.Machine.execSmb4 s
  | .smb5 => Sys2Proof.Machine.execSmb5 s
  | .smb6 => Sys2Proof.Machine.execSmb6 s
  | .smb7 => Sys2Proof.Machine.execSmb7 s
  -- Branches, jumps, subroutines, returns and BRK
  | .bpl => Sys2Proof.Machine.execBpl s
  | .bmi => Sys2Proof.Machine.execBmi s
  | .bvc => Sys2Proof.Machine.execBvc s
  | .bvs => Sys2Proof.Machine.execBvs s
  | .bcc => Sys2Proof.Machine.execBcc s
  | .bcs => Sys2Proof.Machine.execBcs s
  | .bne => Sys2Proof.Machine.execBne s
  | .beq => Sys2Proof.Machine.execBeq s
  | .bra => Sys2Proof.Machine.execBra s
  | .bbr0 => Sys2Proof.Machine.execBbr0 s
  | .bbr1 => Sys2Proof.Machine.execBbr1 s
  | .bbr2 => Sys2Proof.Machine.execBbr2 s
  | .bbr3 => Sys2Proof.Machine.execBbr3 s
  | .bbr4 => Sys2Proof.Machine.execBbr4 s
  | .bbr5 => Sys2Proof.Machine.execBbr5 s
  | .bbr6 => Sys2Proof.Machine.execBbr6 s
  | .bbr7 => Sys2Proof.Machine.execBbr7 s
  | .bbs0 => Sys2Proof.Machine.execBbs0 s
  | .bbs1 => Sys2Proof.Machine.execBbs1 s
  | .bbs2 => Sys2Proof.Machine.execBbs2 s
  | .bbs3 => Sys2Proof.Machine.execBbs3 s
  | .bbs4 => Sys2Proof.Machine.execBbs4 s
  | .bbs5 => Sys2Proof.Machine.execBbs5 s
  | .bbs6 => Sys2Proof.Machine.execBbs6 s
  | .bbs7 => Sys2Proof.Machine.execBbs7 s
  | .jmpAbs => Sys2Proof.Machine.execJmpAbs s
  | .jmpInd => Sys2Proof.Machine.execJmpInd s
  | .jmpIndX => Sys2Proof.Machine.execJmpIndX s
  | .jsr => Sys2Proof.Machine.execJsr s
  | .rts => Sys2Proof.Machine.execRts s
  | .rti => Sys2Proof.Machine.execRti s
  | .brk => Sys2Proof.Machine.execBrk s
  -- Stack, flag, no-op and system instructions
  | .pha => Sys2Proof.Machine.execPha s
  | .phx => Sys2Proof.Machine.execPhx s
  | .phy => Sys2Proof.Machine.execPhy s
  | .php => Sys2Proof.Machine.execPhp s
  | .pla => Sys2Proof.Machine.execPla s
  | .plx => Sys2Proof.Machine.execPlx s
  | .ply => Sys2Proof.Machine.execPly s
  | .plp => Sys2Proof.Machine.execPlp s
  | .clc => Sys2Proof.Machine.execClc s
  | .sec => Sys2Proof.Machine.execSec s
  | .cli => Sys2Proof.Machine.execCli s
  | .sei => Sys2Proof.Machine.execSei s
  | .cld => Sys2Proof.Machine.execCld s
  | .sed => Sys2Proof.Machine.execSed s
  | .clv => Sys2Proof.Machine.execClv s
  | .nop => Sys2Proof.Machine.execNop s
  | .und02 => Sys2Proof.Machine.execUnd02 s
  | .und03 => Sys2Proof.Machine.execUnd03 s
  | .und0B => Sys2Proof.Machine.execUnd0B s
  | .und13 => Sys2Proof.Machine.execUnd13 s
  | .und1B => Sys2Proof.Machine.execUnd1B s
  | .und22 => Sys2Proof.Machine.execUnd22 s
  | .und23 => Sys2Proof.Machine.execUnd23 s
  | .und2B => Sys2Proof.Machine.execUnd2B s
  | .und33 => Sys2Proof.Machine.execUnd33 s
  | .und3B => Sys2Proof.Machine.execUnd3B s
  | .und42 => Sys2Proof.Machine.execUnd42 s
  | .und43 => Sys2Proof.Machine.execUnd43 s
  | .und44 => Sys2Proof.Machine.execUnd44 s
  | .und4B => Sys2Proof.Machine.execUnd4B s
  | .und53 => Sys2Proof.Machine.execUnd53 s
  | .und54 => Sys2Proof.Machine.execUnd54 s
  | .und5B => Sys2Proof.Machine.execUnd5B s
  | .und5C => Sys2Proof.Machine.execUnd5C s
  | .und62 => Sys2Proof.Machine.execUnd62 s
  | .und63 => Sys2Proof.Machine.execUnd63 s
  | .und6B => Sys2Proof.Machine.execUnd6B s
  | .und73 => Sys2Proof.Machine.execUnd73 s
  | .und7B => Sys2Proof.Machine.execUnd7B s
  | .und82 => Sys2Proof.Machine.execUnd82 s
  | .und83 => Sys2Proof.Machine.execUnd83 s
  | .und8B => Sys2Proof.Machine.execUnd8B s
  | .und93 => Sys2Proof.Machine.execUnd93 s
  | .und9B => Sys2Proof.Machine.execUnd9B s
  | .undA3 => Sys2Proof.Machine.execUndA3 s
  | .undAB => Sys2Proof.Machine.execUndAB s
  | .undB3 => Sys2Proof.Machine.execUndB3 s
  | .undBB => Sys2Proof.Machine.execUndBB s
  | .undC2 => Sys2Proof.Machine.execUndC2 s
  | .undC3 => Sys2Proof.Machine.execUndC3 s
  | .undD3 => Sys2Proof.Machine.execUndD3 s
  | .undD4 => Sys2Proof.Machine.execUndD4 s
  | .undDC => Sys2Proof.Machine.execUndDC s
  | .undE2 => Sys2Proof.Machine.execUndE2 s
  | .undE3 => Sys2Proof.Machine.execUndE3 s
  | .undEB => Sys2Proof.Machine.execUndEB s
  | .undF3 => Sys2Proof.Machine.execUndF3 s
  | .undF4 => Sys2Proof.Machine.execUndF4 s
  | .undFB => Sys2Proof.Machine.execUndFB s
  | .undFC => Sys2Proof.Machine.execUndFC s
  | .wai => Sys2Proof.Machine.execWai s
  | .stp => Sys2Proof.Machine.execStp s

end Sys2Proof.Machine
end

