-- ==== Sys2Proof/Machine/Step.lean ====
section
/-!
DEFINITION. One step of the machine, and how an instruction is placed where the next step runs it.
-/

namespace Sys2Proof.Machine

/-- One step. Where an opcode has been fetched, it stands on DATA and the step runs the instruction it decodes to (spec R168):
from its selection edge through the next boundary edge and the extra cycles after it. Everywhere else (after reset, while the CPU
ignores edges, inside an instruction) the step runs the engine on to where it pauses. -/
def step (s : State) : Host.Outcome State Fault Refusal := if s.fetched then exec (decodeOpcode s.dataBus) s else resume s

/-- The pins as an instruction needs them to run undisturbed: the clock high, RDY true, RESB and IRQB not asserted (spec R44). -/
def State.undisturbed (s : State) : State :=
  { s with
    bp := { s.bp with phi2 := { s.bp.phi2 with level := true }, rdy := { s.bp.rdy with level := true }
                      resb := { s.bp.resb with level := true }, irqb := { s.bp.irqb with votes := [] } }
    script := [] }

/-- The state in which the opcode byte of a table word has been fetched by the boundary edge: it stands on DATA and at the
address before PC, its operand bytes stand at PC and after it, and nothing pending or latched keeps the next step from running
it. -/
def State.withFetchWord (s : State) (nbits w : Nat) : State :=
  let s := ((((s.undisturbed.setPending none).setMode .none).setStopped false).setExtra 0).setPrev .opcode .read
  match tableBytes nbits w with
  | b :: rest =>
    let s := ((s.setIdx 1).setData b).load (s.regs.pc - 1#16) b
    (rest.foldl (fun (acc : State × Word) v => (acc.1.load acc.2 v, acc.2 + 1#16)) (s, s.regs.pc)).1
  | [] => s

end Sys2Proof.Machine
end

