-- ==== Sys2Proof/Machine/Observe.lean ====
section
/-!
DEFINITION. What the environment observes: the observation interface (spec R47) and the bus trace (spec R182, R387). Nothing here
changes the machine; what the environment does to it is `EnvAction` (Machine/State.lean).
-/

namespace Sys2Proof.Machine

/-! ### The observation interface (spec R47) -/

/-- `pc()`. -/
def State.pcOut (s : State) : Word := s.regs.pc
/-- `a()`. -/
def State.aOut (s : State) : Byte := s.regs.a
/-- `x()`. -/
def State.xOut (s : State) : Byte := s.regs.x
/-- `y()`. -/
def State.yOut (s : State) : Byte := s.regs.y
/-- `s()`. -/
def State.sOut (s : State) : Byte := s.regs.s
/-- `p()`. -/
def State.pOut (s : State) : Byte := s.regs.p
/-- `stopped()`. -/
def State.stoppedOut (s : State) : Bool := s.eng.stopped
/-- `cycles()`. -/
def State.cyclesOut (s : State) : Nat := s.eng.cycles
/-- `flags()`: the stored P as letters (spec R29). -/
def State.flagsOut (s : State) : String := flagString s.regs.p
/-- `reset()` with no argument: reset is asserted. -/
def State.resetOut (s : State) : Bool := !s.bp.resb.level
/-- `ready()` with no argument. -/
def State.readyOut (s : State) : Bool := s.bp.rdy.level

/-! ### The bus trace (spec R182) -/

/-- What the coming falling edge of PHI2 is to the CPU (spec R160, R161, R163). -/
inductive EdgeKind where
  /-- No state changes and nothing is driven (spec R161). -/
  | ignored
  /-- Consumed by step 1: counted, and nothing is driven (spec R163). -/
  | extra
  /-- Steps 2 to 7 run, and one bus cycle is driven (spec R182). -/
  | driven
  deriving DecidableEq, Repr

/-- The kind of the coming edge, in the state after the environment has acted: ignored where PHI2 is low, so that it cannot fall, where RDY
is false, and where the CPU is stopped and RESB is not asserted (spec R74, R160, R161). -/
def State.edgeKind (s : State) : EdgeKind :=
  if s.bp.phi2.level = false ∨ s.bp.rdy.level = false ∨ s.eng.stopped = true ∧ s.bp.resb.level = true then .ignored
  else if 0 < s.eng.extra then .extra
  else .driven

/-- One bus cycle: "(CYCLES before the edge, ADDR, RWB, SYNC, VPB, MLB, DATA if write)" (spec R182). -/
structure BusCycle where
  cycles : Nat
  addr : Word
  rwb : Bool
  sync : Bool
  vpb : Bool
  mlb : Bool
  written : Option Byte
  deriving DecidableEq, Repr

/-- The bus cycle on the Backplane's lines, in the state after a cycle that began with `cycles` counted. -/
def State.busCycle (s : State) (cycles : Nat) : BusCycle :=
  ⟨cycles, s.bp.addr.value, s.bp.rwb.level, s.bp.sync.level, s.bp.vpb.level, s.bp.mlb.level,
    if s.bp.rwb.level then none else some s.dataBus⟩

/-- The next `n` cycles, each with the kind of its edge and what is on the lines after it, up to where the machine stops with a fault or a
refusal. -/
def edges (n : Nat) (s : State) : List (EdgeKind × BusCycle) :=
  match n with
  | 0 => []
  | n + 1 => match s.cycle with
    | .next t => (s.takeInput.edgeKind, t.busCycle s.eng.cycles) :: edges n t
    | .fault _ | .refused _ => []

/-- The trace of the next `n` cycles, with a row "per processed edge" (spec R182): an ignored edge has none. An extra edge's row repeats
the lines of the cycle before it, because it drives nothing (spec R183). -/
def trace (n : Nat) (s : State) : List BusCycle := ((edges n s).filter fun e => e.1 != .ignored).map Prod.snd

/-- The bus cycles that the CPU drives in the next `n` cycles, one "for every processed non-extra edge" (spec R182). -/
def drivenCycles (n : Nat) (s : State) : List BusCycle := ((edges n s).filter fun e => e.1 == .driven).map Prod.snd

end Sys2Proof.Machine
end

