-- ==== Sys2Proof/Safety.lean ====
section
/-!
DEFINITION. The terms in which claims speak: when the machine can run an instruction undisturbed, what it is to have run one, which
bytes of memory changed, and the invariant of the engine.
-/

namespace Sys2Proof.Machine

/-! ### When an instruction runs undisturbed -/

/-- No IRQ is admitted: IRQB is not asserted, or I masks it (spec R165, R372). -/
def State.Masked (s : State) : Prop := s.bp.irqb.level = true ∨ flag bitI s.regs.p = true

/-- The environment leaves the CPU alone: it does nothing between cycles, the clock is high, RDY is true, RESB is not asserted, and the
CPU is not stopped (spec R161, R164). -/
structure State.Quiet (s : State) : Prop where
  noInput : s.script = []
  clock : s.bp.phi2.level = true
  rdy : s.bp.rdy.level = true
  resb : s.bp.resb.level = true
  running : s.eng.stopped = false

/-- The platform is plain memory: no external device, and some device answers every address (spec R78, R80). -/
structure Solid (ds : List Device) : Prop where
  memory : ∀ d ∈ ds, d.kind ≠ .external
  answered : ∀ a : Word, ∃ d ∈ ds, d.selects a = true

/-- A state in which an opcode has been fetched, whether or not an interrupt takes its place: the environment leaves the CPU alone, the
platform is plain memory, and no extra cycle and no deferred effect is pending. IRQB and MODE are as they may be. -/
structure State.Interruptible (s : State) : Prop where
  quiet : s.Quiet
  solid : Solid s.devices
  extra : s.eng.extra = 0
  pending : s.eng.pending = none

/-- An instruction whose opcode has been fetched runs, and no interrupt takes its place: none is latched, and IRQB is not asserted or
masked (spec R165, R168, R373). -/
structure State.Ready (s : State) : Prop extends s.Interruptible where
  mode : s.eng.mode = .none
  masked : s.Masked

/-- WAI waits (spec R347, `wait_for_irq`): its INTERNAL cycle has been driven and is to be driven again. -/
structure State.Waiting (s : State) : Prop where
  quiet : s.Quiet
  solid : Solid s.devices
  parameter : s.waiSemantics = .waitForIrq
  place : s.eng.list = .wai ∧ s.eng.idx = 2 ∧ s.eng.instr = .instr .wai
  last : s.eng.prevTag = .internal ∧ s.eng.prevRw = .read
  extra : s.eng.extra = 0
  pending : s.eng.pending = none
  mode : s.eng.mode = .none

/-! ### What an instruction leaves -/

/-- The encoding part of an instruction's rule: each opcode names its instruction, which runs on its list in so many base cycles. -/
def Encodings (rows : List (Byte × Instr × ListName × Nat)) : Prop :=
  ∀ r ∈ rows, decodeOpcode r.1 = r.2.1 ∧ r.2.1.list = r.2.2.1 ∧ baseCycles r.2.1 = r.2.2.2

/-- The address of the instruction after `i`, from the state in which the opcode of `i` has been fetched (spec R20, R100). -/
def State.nextPc (s : State) (i : Instr) : Word := s.regs.pc + BitVec.ofNat 16 i.operandCount

/-- From `s` to `t` one instruction ran, in `n` cycles, and left the registers `r`, in which `pc` is the address of the next
instruction. Its boundary edge has fetched the next opcode: PC is one past it and the opcode stands on DATA. IRQB is as it was, and an
IRQ has been latched only where IRQB is asserted and the instruction has cleared I (spec R20, R165, R170, R171, R181). So `t` is ready to run
that opcode, or IRQB is asserted and I clear, and interrupt entry takes its place. -/
structure State.Ran (s t : State) (r : Regs) (n : Nat) : Prop where
  regs : t.regs = { r with pc := r.pc + 1#16 }
  fetched : t.fetched = true
  opcode : t.dataBus = t.peek r.pc
  cycles : t.eng.cycles = s.eng.cycles + n
  settled : t.Interruptible
  mode : t.eng.mode = .none ∨ t.eng.mode = .irq ∧ ¬t.Masked
  irqb : t.bp.irqb.level = s.bp.irqb.level
  parameter : t.waiSemantics = s.waiSemantics

/-- Every byte of memory reads as before. -/
def State.Kept (s t : State) : Prop := ∀ b : Word, t.peek b = s.peek b

/-- The device that answers a read of `a` last (spec R80). -/
def lastAnswer (ds : List Device) (a : Word) : Option Device := (ds.filter fun d => d.selects a).getLast?

/-- A store to `a` takes: the device that answers a read of `a` last is RAM (spec R78, R80). What another device does with the byte is
log entry 12. -/
def State.takes (s : State) (a : Word) : Bool := (lastAnswer s.devices a).any fun d => d.kind == .ram

/-- The byte `v` has been stored at `a`, and every byte at another address reads as before. A device that is not RAM drops the
byte (DESIGN CHOICE, log entry 12). -/
structure State.Stored (s t : State) (a : Word) (v : Byte) : Prop where
  there : t.peek a = if s.takes a then v else s.peek a
  elsewhere : ∀ b : Word, b ≠ a → t.peek b = s.peek b

/-- Two bytes have been pushed, `v1` at `$01:sp` and `v2` one below it, modulo 256 inside the stack page (spec R23); every byte
outside the two reads as before. A device that is not RAM drops the byte (DESIGN CHOICE, log entry 12). -/
structure State.Pushed2 (s t : State) (sp v1 v2 : Byte) : Prop where
  first : t.peek (stackAddr sp) = if s.takes (stackAddr sp) then v1 else s.peek (stackAddr sp)
  second : t.peek (stackAddr (sp - 1#8)) = if s.takes (stackAddr (sp - 1#8)) then v2 else s.peek (stackAddr (sp - 1#8))
  elsewhere : ∀ b : Word, b ≠ stackAddr sp → b ≠ stackAddr (sp - 1#8) → t.peek b = s.peek b

/-- Three bytes have been pushed, each one below the one before it, modulo 256 inside the stack page (spec R23); every byte outside
the three reads as before. A device that is not RAM drops the byte (DESIGN CHOICE, log entry 12). -/
structure State.Pushed3 (s t : State) (sp v1 v2 v3 : Byte) : Prop where
  first : t.peek (stackAddr sp) = if s.takes (stackAddr sp) then v1 else s.peek (stackAddr sp)
  second : t.peek (stackAddr (sp - 1#8)) = if s.takes (stackAddr (sp - 1#8)) then v2 else s.peek (stackAddr (sp - 1#8))
  third : t.peek (stackAddr (sp - 2#8)) = if s.takes (stackAddr (sp - 2#8)) then v3 else s.peek (stackAddr (sp - 2#8))
  elsewhere : ∀ b : Word, b ≠ stackAddr sp → b ≠ stackAddr (sp - 1#8) → b ≠ stackAddr (sp - 2#8) → t.peek b = s.peek b

/-- The extra cycles of a branch to `target` from the next instruction's address: one where it is taken, one more where the high
byte changes (spec R167, R290). -/
def branchExtra (taken : Bool) (next target : Word) : Nat :=
  if taken then (if hiByte target = hiByte next then 1 else 2) else 0

/-- A little-endian word in memory: the low byte at `a`, the high byte at the next address (spec R84). -/
def State.peekWord (s : State) (a : Word) : Word := join (s.peek (a + 1#16)) (s.peek a)

/-- From `s` to `t` an interrupt entry took the place of the fetched instruction: PC went back to the discarded opcode, which is the
return address; PCH, PCL and the status byte with B clear were pushed; I was set and D cleared; the handler's address came from the vector
at `vec`, and its first opcode has been fetched and is ready to run, because I is set (spec R168, R372, R373, R376, R377, R378).
A device that is not RAM drops the byte pushed to it (DESIGN CHOICE, log entry 12). -/
structure State.Entered (s t : State) (vec : Word) : Prop where
  regs : t.regs = { s.regs with pc := s.peekWord vec + 1#16, s := s.regs.s - 3#8, p := enteredStatus s.regs.p }
  pushed : s.Pushed3 t s.regs.s (hiByte (s.regs.pc - 1#16)) (loByte (s.regs.pc - 1#16)) (pushedByEntry s.regs.p)
  fetched : t.fetched = true
  opcode : t.dataBus = t.peek (s.peekWord vec)
  cycles : t.eng.cycles = s.eng.cycles + 7
  ready : t.Ready
  irqb : t.bp.irqb.level = s.bp.irqb.level
  parameter : t.waiSemantics = s.waiSemantics

/-! ### The invariant of the engine -/

/-- The memory an action of the environment brings is in canonical form. -/
def EnvAction.wf (a : EnvAction) : Bool :=
  match a with
  | .attach d => Memory.wf d.cells
  | .reset _ | .ready _ | .busEnable _ | .irqVote _ _ | .irqDetach _ | .detach _ | .master _ _ _ => true

/-- What every reachable state of the machine has, and every step keeps. -/
structure State.Inv (s : State) : Prop where
  /-- IDX is the index of a cycle of LIST, but at a selection edge, before LIST is selected (spec R38, R176). -/
  index : s.eng.idx < (cyclesOf s.eng.list).length ∨ s.eng.idx = 1
  /-- LIST is the list of INSTR (spec R38). -/
  list : s.eng.list = match s.eng.instr with | .intr => .intr | .instr i => i.list
  /-- A deferred effect is due only at a boundary (spec R42). -/
  pending : s.eng.pending ≠ none → s.eng.idx = 0
  /-- Before a selection edge the last cycle driven is the opcode fetch (spec R168). -/
  fetch : s.eng.idx = 1 → s.eng.prevTag = .opcode ∧ s.eng.prevRw = .read
  /-- EXTRA is 0, 1 or 2 (spec R41). -/
  extra : s.eng.extra ≤ 2
  /-- NMI is never latched (spec R375). -/
  noNmi : s.eng.mode ≠ .nmi
  /-- Interrupt entry runs with its cause latched (spec R373, R374). -/
  entry : s.eng.list = .intr → 2 ≤ s.eng.idx → s.eng.mode ≠ .none
  /-- The clock is high between cycles (spec R74). -/
  clock : s.bp.phi2.level = true
  /-- Every device's memory is in canonical form, and so is what the environment still brings. -/
  memory : (∀ d ∈ s.devices, Memory.wf d.cells = true) ∧ ∀ actions ∈ s.script, ∀ a ∈ actions, EnvAction.wf a = true

end Sys2Proof.Machine
end

