-- ==== Sys2Proof/Certificates/Slice0/Obligations.lean ====
section
/-!
DEFINITION. The statements for the provers. Those about an instruction say what it leaves in every state in which its opcode has been
fetched and no interrupt takes its place (`State.Ready`: none is latched, and IRQB is not asserted or I masks it); `State.Ran` says what
the registers are then and that the next opcode has been fetched, `State.Kept` and `State.Stored` what memory is. That a device that
is not RAM drops a stored byte, as `State.Stored` says, is the model's choice (log entry 12).
-/

open Sys2Proof Sys2Proof.Machine

/-! ### Encoding -/

/-- Opcodes and instructions are one to one: "every one of the 256 opcode values decodes to a defined instruction or an undefined no-op"
(spec R137), and each undefined opcode is an instruction of its own. One constructor for each opcode, where two of them have one mnemonic
and one list too, is the model's choice (log entry 8). -/
def Obligations.EveryOpcodeIsOneInstruction : Prop :=
  (∀ i : Instr, decodeOpcode i.opcode = i) ∧ ∀ b : Byte, (decodeOpcode b).opcode = b

/-- Decoding the bytes of a well-formed instruction gives it back, with its operand bytes, whatever follows (spec R100, R138). How many
operand bytes JMP abs and JSR have is log entry 18. -/
def Obligations.DecodingAnEncodingGivesItBack : Prop :=
  ∀ (n : Insn) (rest : List Byte), n.wellFormed = true → decodeInsn (encodeInsn n ++ rest) = .ok (n, rest)

/-- What the decoder reads is a well-formed instruction whose encoding is the bytes it read, and it refuses bytes only where they end
before the instruction does: there is no illegal encoding (spec R100, R137, R138). How many operand bytes JMP abs and JSR
have is log entry 18. -/
def Obligations.EveryDecodingIsAnEncoding : Prop :=
  ∀ bytes : List Byte,
    (∀ (n : Insn) (rest : List Byte), decodeInsn bytes = .ok (n, rest) → n.wellFormed = true ∧ encodeInsn n ++ rest = bytes) ∧
    ((∃ e, decodeInsn bytes = .error e) ↔
      bytes = [] ∨ ∃ b rest, bytes = b :: rest ∧ rest.length < (decodeOpcode b).operandCount)

/-- Words written out from the spec's encodings decode to the instructions they stand for (spec R135, R140). -/
def Obligations.WordsDecodeToTheirInstructions : Prop :=
  decodeInsn [0xA9#8, 0x23#8, 0xDB#8] = .ok (⟨.ldaImm, [0x23#8]⟩, [0xDB#8]) ∧
  decodeInsn [0x8D#8, 0x00#8, 0x02#8] = .ok (⟨.staAbs, [0x00#8, 0x02#8]⟩, []) ∧
  decodeInsn [0x71#8, 0x20#8] = .ok (⟨.adcIndY, [0x20#8]⟩, []) ∧
  decodeInsn [0x57#8, 0x20#8] = .ok (⟨.rmb5, [0x20#8]⟩, []) ∧
  decodeInsn [0x0F#8, 0x10#8, 0x05#8] = .ok (⟨.bbr0, [0x10#8, 0x05#8]⟩, []) ∧
  decodeInsn [0x7C#8, 0x00#8, 0x03#8] = .ok (⟨.jmpIndX, [0x00#8, 0x03#8]⟩, []) ∧
  decodeInsn [0x00#8, 0xEA#8] = .ok (⟨.brk, [0xEA#8]⟩, []) ∧
  decodeInsn [0x03#8] = .ok (⟨.und03, []⟩, []) ∧
  decodeInsn [0x5C#8, 0x34#8, 0x12#8] = .ok (⟨.und5C, [0x34#8, 0x12#8]⟩, [])

/-- An assembler's offset byte takes a branch to its target, and only where the target is in reach (spec R101, R140). -/
def Obligations.BranchOffsetsReachTheirTargets : Prop :=
  ∀ (next target : Word) (rr : Byte), branchOffset next target = some rr ↔ branchTarget next rr = target

/-- The control-line literals: SYNC is 1 only in the opcode fetch, VPB is 0 only in the vector cycles of BRK and INTR, MLB is 0 only in the
read, INTERNAL and write cycles of the RMW lists (spec R107). -/
def Obligations.ControlLinesAreTheLiterals : Prop :=
  ∀ (l : ListName) (k : Nat) (c : Cycle), (cyclesOf l)[k]? = some c →
    (c.sync = true ↔ k = 0) ∧
    (c.vpb = false ↔ (l = .brk ∨ l = .intr) ∧ (c.addr = .vecLo ∨ c.addr = .vecHi)) ∧
    (c.mlb = false ↔ (l = .zpRmw ∨ l = .zpxRmw ∨ l = .absRmw ∨ l = .absxRmw) ∧
      (c.data = .internal ∨ c.data = .data))

/-! ### Signals, buses, memory, devices -/

/-- `value(b)`: the level becomes `b`; every listener is called once, in order, with the edge's type, on a transition and only then
(spec R62). -/
def Obligations.SignalsNotifyOnTransitions : Prop :=
  ∀ (g : Signal) (b : Bool), (g.set b).1.level = b ∧ (g.set b).1.listeners = g.listeners ∧
    (b = g.level → (g.set b).2 = []) ∧
    (b ≠ g.level → (g.set b).2 = g.listeners.map fun l => ⟨l, if b then .rising else .falling⟩)

/-- On a Signal and on an OpenCollector alike: a dispatch whose listeners register and unregister calls each listener of the snapshot once
and no other, with the one edge type; a listener that makes a transition of its own has that transition's dispatch run to its end, with the
listeners as they are then and the new edge type, before the outer dispatch goes on (spec R62, R63, R65). -/
def Obligations.DispatchCallsTheSnapshot : Prop :=
  (∀ (behaviour : Nat → Edge → List ListenerAct) (g : Signal) (e : Edge),
    (∀ l e', ∀ a ∈ behaviour l e', (∃ k, a = .register k) ∨ ∃ k, a = .unregister k) →
    ∃ fuel, ∃ g' : Signal, Signal.dispatch behaviour fuel g (notifyAll g.listeners e) = (g', g.listeners.map fun l => ⟨l, e⟩, []) ∧
      g'.level = g.level) ∧
  (∀ (behaviour : Nat → Edge → List CollectorAct) (oc : OpenCollector) (e : Edge),
    (∀ l e', ∀ a ∈ behaviour l e', (∃ k, a = .register k) ∨ ∃ k, a = .unregister k) →
    ∃ fuel, ∃ oc' : OpenCollector,
      OpenCollector.dispatch behaviour fuel oc (notifyAll oc.listeners e) = (oc', oc.listeners.map fun l => ⟨l, e⟩, []) ∧
      oc'.votes = oc.votes) ∧
  (∀ (behaviour : Nat → Edge → List ListenerAct) (g g1 g2 : Signal) (l : Nat) (e : Edge) (b : Bool) (rest : List (LineTask ListenerAct))
      (n m : Nat) (nested outer : List Call),
    behaviour l e = [.set b] → b ≠ g.level →
    Signal.dispatch behaviour n (g.set b).1 (notifyAll g.listeners (if b then .rising else .falling)) = (g1, nested, []) →
    Signal.dispatch behaviour m g1 rest = (g2, outer, []) →
    ∃ fuel, Signal.dispatch behaviour fuel g (.notify l e :: rest) = (g2, ⟨l, e⟩ :: nested ++ outer, [])) ∧
  (∀ (behaviour : Nat → Edge → List CollectorAct) (oc oc1 oc2 : OpenCollector) (l drv : Nat) (e : Edge) (b : Bool)
      (rest : List (LineTask CollectorAct)) (n m : Nat) (nested outer : List Call),
    behaviour l e = [.vote drv b] → (oc.vote drv b).1.level ≠ oc.level →
    OpenCollector.dispatch behaviour n (oc.vote drv b).1
      (notifyAll oc.listeners (if (oc.vote drv b).1.level then .rising else .falling)) = (oc1, nested, []) →
    OpenCollector.dispatch behaviour m oc1 rest = (oc2, outer, []) →
    ∃ fuel, OpenCollector.dispatch behaviour fuel oc (.notify l e :: rest) = (oc2, ⟨l, e⟩ :: nested ++ outer, []))

/-- On a Signal and on an OpenCollector alike: registering is idempotent, unregistering takes the listener out, and unregistering an absent
listener has no effect; neither changes a level (spec R64, R65). That "unregistering an absent listener has no effect" is the spec's own
inference ("derived: from the set semantics the source states", R64); an OpenCollector has "a listener set as in rule R60" (R65). -/
def Obligations.RegistrationIsIdempotent : Prop :=
  (∀ (g : Signal) (l : Nat), l ∈ (g.register l).listeners ∧ (g.register l).register l = g.register l ∧
    l ∉ (g.unregister l).listeners ∧ (l ∉ g.listeners → g.unregister l = g) ∧
    (g.register l).level = g.level ∧ (g.unregister l).level = g.level ∧
    ∀ k, k ≠ l → (k ∈ (g.register l).listeners ↔ k ∈ g.listeners) ∧ (k ∈ (g.unregister l).listeners ↔ k ∈ g.listeners)) ∧
  (∀ (oc : OpenCollector) (l : Nat), l ∈ (oc.register l).listeners ∧ (oc.register l).register l = oc.register l ∧
    l ∉ (oc.unregister l).listeners ∧ (l ∉ oc.listeners → oc.unregister l = oc) ∧
    (oc.register l).votes = oc.votes ∧ (oc.unregister l).votes = oc.votes ∧
    ∀ k, k ≠ l → (k ∈ (oc.register l).listeners ↔ k ∈ oc.listeners) ∧ (k ∈ (oc.unregister l).listeners ↔ k ∈ oc.listeners))

/-- An OpenCollector's level is the AND of its votes; a driver's vote replaces its own and leaves the others; a detached driver has none;
a direct `value(b)` is ignored; listeners are called exactly where the level changes (spec R65). -/
def Obligations.OpenCollectorIsWiredAnd : Prop :=
  ∀ (oc : OpenCollector) (drv : Nat) (b : Bool),
    (oc.level = true ↔ ∀ v ∈ oc.votes, v.2 = true) ∧
    (oc.set b) = (oc, []) ∧
    (oc.votes.Pairwise (fun v w => v.1 < w.1) →
      (oc.vote drv b).1.votes.Pairwise (fun v w => v.1 < w.1) ∧
      (∀ d c, (d, c) ∈ (oc.vote drv b).1.votes ↔ (d = drv ∧ c = b) ∨ (d ≠ drv ∧ (d, c) ∈ oc.votes)) ∧
      (∀ d c, (d, c) ∈ (oc.detach drv).1.votes ↔ d ≠ drv ∧ (d, c) ∈ oc.votes)) ∧
    (oc.vote drv b).1.listeners = oc.listeners ∧ (oc.detach drv).1.listeners = oc.listeners ∧
    ((oc.vote drv b).2 = if (oc.vote drv b).1.level = oc.level then []
      else oc.listeners.map fun l => ⟨l, if (oc.vote drv b).1.level then .rising else .falling⟩) ∧
    ((oc.detach drv).2 = if (oc.detach drv).1.level = oc.level then []
      else oc.listeners.map fun l => ⟨l, if (oc.detach drv).1.level then .rising else .falling⟩)

/-- A write keeps memory's canonical form, reads back at its address and leaves every other address alone. -/
def Obligations.MemoryWritesReadBack : Prop :=
  ∀ (m : Memory) (a : Nat) (v : Byte), Memory.wf m = true → a < 2 ^ 16 →
    Memory.wf (Memory.write m a v) = true ∧ ∀ b, Memory.read (Memory.write m a v) b = if b = a then v else Memory.read m b

/-- Memories in canonical form that read alike at every address are equal data. -/
def Obligations.EqualMemoriesAreEqualData : Prop :=
  ∀ m n : Memory, Memory.wf m = true → Memory.wf n = true → (∀ a, a < 2 ^ 16 → Memory.read m a = Memory.read n a) → m = n

/-- The device edge. On a read that no device decodes DATA keeps its value; of the devices that decode it the last one called wins, with the
byte its memory holds or, where it is external, a free value drawn in its turn. On a write DATA is kept, each RAM that decodes the address
takes the byte, and every other device is as before (spec R78, R80). That ROM drops the byte, and what an external device answers and
takes, is the model's choice (log entry 12). -/
def Obligations.DeviceEdgeAnswersInOrder : Prop :=
  ∀ s : State,
    (s.bp.rwb.level = true → (∀ d ∈ s.devices, d.selects s.bp.addr.value = false) → s.deviceEdge = s) ∧
    (∀ (before after : List Device) (d : Device), s.bp.rwb.level = true → s.devices = before ++ d :: after →
      d.selects s.bp.addr.value = true → (∀ e ∈ after, e.selects s.bp.addr.value = false) →
      s.deviceEdge.devices = s.devices ∧
      (d.kind ≠ .external → s.deviceEdge.dataBus = Memory.read d.cells s.bp.addr.value.toNat) ∧
      (d.kind = .external → ∃ n, s.draws ≤ n ∧ s.deviceEdge.dataBus = Config.drawByte n ∧ s.deviceEdge.draws = n + 1)) ∧
    (s.bp.rwb.level = false → s.deviceEdge.dataBus = s.dataBus ∧ s.deviceEdge.devices.length = s.devices.length ∧
      ∀ (k : Nat) (d : Device), s.devices[k]? = some d → ∃ e, s.deviceEdge.devices[k]? = some e ∧
        (d.selects s.bp.addr.value = true → d.kind = .ram → e = { d with cells := e.cells } ∧
          Memory.read e.cells s.bp.addr.value.toNat = s.dataBus ∧
          ∀ b, b ≠ s.bp.addr.value.toNat → Memory.read e.cells b = Memory.read d.cells b) ∧
        (d.selects s.bp.addr.value = false ∨ d.kind ≠ .ram → e = d))

/-! ### Edges -/

/-- "If RDY is false, the edge is ignored", and so it is while the CPU is stopped and RESB is not asserted: nothing changes (spec R161). -/
def Obligations.IgnoredEdgesChangeNothing : Prop :=
  ∀ s : State, s.bp.rdy.level = false ∨ (s.eng.stopped = true ∧ s.bp.resb.level = true) → s.cpuEdge = .next s

/-- An extra edge is consumed and counted, and drives nothing (spec R163). -/
def Obligations.ExtraEdgesOnlyCount : Prop :=
  ∀ s : State, s.bp.rdy.level = true → s.eng.stopped = false → 0 < s.eng.extra →
    s.cpuEdge = .next { s with eng := { s.eng with extra := s.eng.extra - 1, cycles := s.eng.cycles + 1 } }

/-- On the rising edge the CPU does nothing, and no device drives ADDR, RWB, SYNC, VPB or MLB (spec R74, R78). -/
def Obligations.RisingEdgesLeaveTheCpuAlone : Prop :=
  ∀ s : State, s.clockRises.regs = s.regs ∧ s.clockRises.latch = s.latch ∧ s.clockRises.eng = s.eng ∧
    s.clockRises.bp.addr = s.bp.addr ∧ s.clockRises.bp.rwb = s.bp.rwb ∧ s.clockRises.bp.sync = s.bp.sync ∧
    s.clockRises.bp.vpb = s.bp.vpb ∧ s.clockRises.bp.mlb = s.bp.mlb

/-- IRQ is latched exactly where RESB is not asserted, I is clear, IRQB is asserted and nothing is latched yet; then nothing else
changes (spec R165, R372). -/
def Obligations.IrqIsLatchedOnlyUnmasked : Prop :=
  ∀ s : State, s.bp.resb.level = true →
    (flag bitI s.regs.p = false ∧ s.bp.irqb.level = false ∧ s.eng.mode = .none →
      s.sample = { s with eng := { s.eng with mode := .irq } }) ∧
    (flag bitI s.regs.p = true ∨ s.bp.irqb.level = true ∨ s.eng.mode ≠ .none → s.sample = s)

/-- An edge with RESB asserted abandons what runs, stopped or not: MODE is RESET, CYCLES counts this edge alone, no deferred effect is due,
the next edge is a selection edge, and A, X, Y and S are as before (spec R161, R164, R402). -/
def Obligations.AssertedResetAbandonsTheInstruction : Prop :=
  ∀ s : State, s.script = [] → s.bp.phi2.level = true → s.bp.rdy.level = true → s.bp.resb.level = false → s.eng.extra = 0 →
    ∃ t, s.cycle = .next t ∧ t.eng.mode = .reset ∧ t.eng.idx = 1 ∧ t.eng.cycles = 1 ∧ t.eng.pending = none ∧ t.eng.extra = 0 ∧
      t.eng.stopped = false ∧ t.fetched = true ∧ t.regs.a = s.regs.a ∧ t.regs.x = s.regs.x ∧ t.regs.y = s.regs.y ∧
      t.regs.s = s.regs.s

/-! ### Steps -/

/-- Where an opcode has been fetched, a step runs the instruction it decodes to (spec R168). -/
def Obligations.StepRunsTheFetchedInstruction : Prop :=
  ∀ (i : Instr) (s : State), s.fetched = true → s.dataBus = i.opcode → step s = exec i s

/-- After an instruction has run, the next step runs the instruction whose opcode stands at the address it left, with PC at its first
operand byte (spec R20, R91, R170). Where IRQB is not asserted or I is set nothing takes that instruction's place; where IRQB is asserted
and the instruction has left I clear, interrupt entry does (spec R165, R181, R372, R373). That a device that is not RAM drops a stored
byte is the model's choice (log entry 12). -/
def Obligations.StepsFollowTheProgramCounter : Prop :=
  ∀ (i : Instr) (s t : State) (r : Regs) (n : Nat), exec i s = .next t → s.Ran t r n →
    step t = exec (decodeOpcode (t.peek r.pc)) t ∧ t.regs.pc = r.pc + 1#16 ∧
    (t.bp.irqb.level = true ∨ flag bitI r.p = true → t.Ready) ∧
    (t.bp.irqb.level = false → flag bitI r.p = false → ∃ u, step t = .next u ∧ t.Entered u 0xFFFE#16)

/-! ### Loads, stores, transfers -/

/-- LDA, LDX and LDY in every form: the register is the byte at the effective address, N and Z say what it is, and nothing else changes;
one extra cycle where the index carries into the high byte (spec R172, R200 to R202). -/
def Obligations.LoadsSetTheirRegister : Prop :=
  Encodings
    [(0xA1#8, .ldaIndX, .izxR, 6), (0xA5#8, .ldaZp, .zpR, 3), (0xA9#8, .ldaImm, .imm, 2), (0xAD#8, .ldaAbs, .absR, 4),
     (0xB1#8, .ldaIndY, .izyR, 5), (0xB2#8, .ldaInd, .izpR, 5), (0xB5#8, .ldaZpX, .zpxR, 4), (0xB9#8, .ldaAbsY, .absyR, 4),
     (0xBD#8, .ldaAbsX, .absxR, 4), (0xA2#8, .ldxImm, .imm, 2), (0xA6#8, .ldxZp, .zpR, 3), (0xAE#8, .ldxAbs, .absR, 4),
     (0xB6#8, .ldxZpY, .zpyR, 4), (0xBE#8, .ldxAbsY, .absyR, 4), (0xA0#8, .ldyImm, .imm, 2), (0xA4#8, .ldyZp, .zpR, 3),
     (0xAC#8, .ldyAbs, .absR, 4), (0xB4#8, .ldyZpX, .zpxR, 4), (0xBC#8, .ldyAbsX, .absxR, 4)] ∧
  ∀ (i : Instr) (s : State), s.Ready →
    (i.mnemonic = .lda → ∃ a t, s.effAddr i.list = some a ∧ exec i s = .next t ∧ s.Kept t ∧
      s.Ran t { s.regs with pc := s.nextPc i, a := s.peek a, p := setNZ (s.peek a) s.regs.p }
        (baseCycles i + (s.pageCrossed i.list).toNat)) ∧
    (i.mnemonic = .ldx → ∃ a t, s.effAddr i.list = some a ∧ exec i s = .next t ∧ s.Kept t ∧
      s.Ran t { s.regs with pc := s.nextPc i, x := s.peek a, p := setNZ (s.peek a) s.regs.p }
        (baseCycles i + (s.pageCrossed i.list).toNat)) ∧
    (i.mnemonic = .ldy → ∃ a t, s.effAddr i.list = some a ∧ exec i s = .next t ∧ s.Kept t ∧
      s.Ran t { s.regs with pc := s.nextPc i, y := s.peek a, p := setNZ (s.peek a) s.regs.p }
        (baseCycles i + (s.pageCrossed i.list).toNat))

/-- STA, STX, STY and STZ in every form: the register, or zero, is stored at the effective address, no register but PC changes, and there
is no page-cross penalty (spec R203 to R206). That a device that is not RAM drops the byte is the model's choice (log entry 12). -/
def Obligations.StoresStoreTheirRegister : Prop :=
  Encodings
    [(0x81#8, .staIndX, .izxW, 6), (0x85#8, .staZp, .zpW, 3), (0x8D#8, .staAbs, .absW, 4), (0x91#8, .staIndY, .izyW, 6),
     (0x92#8, .staInd, .izpW, 5), (0x95#8, .staZpX, .zpxW, 4), (0x99#8, .staAbsY, .absyW, 5), (0x9D#8, .staAbsX, .absxW, 5),
     (0x86#8, .stxZp, .zpW, 3), (0x8E#8, .stxAbs, .absW, 4), (0x96#8, .stxZpY, .zpyW, 4), (0x84#8, .styZp, .zpW, 3),
     (0x8C#8, .styAbs, .absW, 4), (0x94#8, .styZpX, .zpxW, 4), (0x64#8, .stzZp, .zpW, 3), (0x74#8, .stzZpX, .zpxW, 4),
     (0x9C#8, .stzAbs, .absW, 4), (0x9E#8, .stzAbsX, .absxW, 5)] ∧
  ∀ (i : Instr) (s : State), s.Ready →
    (i.mnemonic = .sta → ∃ a t, s.effAddr i.list = some a ∧ exec i s = .next t ∧ s.Stored t a s.regs.a ∧
      s.Ran t { s.regs with pc := s.nextPc i } (baseCycles i)) ∧
    (i.mnemonic = .stx → ∃ a t, s.effAddr i.list = some a ∧ exec i s = .next t ∧ s.Stored t a s.regs.x ∧
      s.Ran t { s.regs with pc := s.nextPc i } (baseCycles i)) ∧
    (i.mnemonic = .sty → ∃ a t, s.effAddr i.list = some a ∧ exec i s = .next t ∧ s.Stored t a s.regs.y ∧
      s.Ran t { s.regs with pc := s.nextPc i } (baseCycles i)) ∧
    (i.mnemonic = .stz → ∃ a t, s.effAddr i.list = some a ∧ exec i s = .next t ∧ s.Stored t a 0x00#8 ∧
      s.Ran t { s.regs with pc := s.nextPc i } (baseCycles i))

/-- TAX, TAY, TXA, TYA, TSX and TXS: two cycles, N and Z from the value but for TXS, nothing else (spec R207 to R212). -/
def Obligations.TransfersCopyTheirRegister : Prop :=
  Encodings
    [(0xAA#8, .tax, .imp, 2), (0xA8#8, .tay, .imp, 2), (0x8A#8, .txa, .imp, 2), (0x98#8, .tya, .imp, 2),
     (0xBA#8, .tsx, .imp, 2), (0x9A#8, .txs, .imp, 2)] ∧
  ∀ s : State, s.Ready →
    (∃ t, exec .tax s = .next t ∧ s.Kept t ∧ s.Ran t { s.regs with x := s.regs.a, p := setNZ s.regs.a s.regs.p } 2) ∧
    (∃ t, exec .tay s = .next t ∧ s.Kept t ∧ s.Ran t { s.regs with y := s.regs.a, p := setNZ s.regs.a s.regs.p } 2) ∧
    (∃ t, exec .txa s = .next t ∧ s.Kept t ∧ s.Ran t { s.regs with a := s.regs.x, p := setNZ s.regs.x s.regs.p } 2) ∧
    (∃ t, exec .tya s = .next t ∧ s.Kept t ∧ s.Ran t { s.regs with a := s.regs.y, p := setNZ s.regs.y s.regs.p } 2) ∧
    (∃ t, exec .tsx s = .next t ∧ s.Kept t ∧ s.Ran t { s.regs with x := s.regs.s, p := setNZ s.regs.s s.regs.p } 2) ∧
    (∃ t, exec .txs s = .next t ∧ s.Kept t ∧ s.Ran t { s.regs with s := s.regs.x } 2)

/-! ### Arithmetic and logic -/

/-- ORA, AND and EOR in every form (spec R231 to R233). -/
def Obligations.LogicCombinesAWithTheOperand : Prop :=
  Encodings
    [(0x01#8, .oraIndX, .izxR, 6), (0x05#8, .oraZp, .zpR, 3), (0x09#8, .oraImm, .imm, 2), (0x0D#8, .oraAbs, .absR, 4),
     (0x11#8, .oraIndY, .izyR, 5), (0x12#8, .oraInd, .izpR, 5), (0x15#8, .oraZpX, .zpxR, 4), (0x19#8, .oraAbsY, .absyR, 4),
     (0x1D#8, .oraAbsX, .absxR, 4), (0x21#8, .andIndX, .izxR, 6), (0x25#8, .andZp, .zpR, 3), (0x29#8, .andImm, .imm, 2),
     (0x2D#8, .andAbs, .absR, 4), (0x31#8, .andIndY, .izyR, 5), (0x32#8, .andInd, .izpR, 5), (0x35#8, .andZpX, .zpxR, 4),
     (0x39#8, .andAbsY, .absyR, 4), (0x3D#8, .andAbsX, .absxR, 4), (0x41#8, .eorIndX, .izxR, 6), (0x45#8, .eorZp, .zpR, 3),
     (0x49#8, .eorImm, .imm, 2), (0x4D#8, .eorAbs, .absR, 4), (0x51#8, .eorIndY, .izyR, 5), (0x52#8, .eorInd, .izpR, 5),
     (0x55#8, .eorZpX, .zpxR, 4), (0x59#8, .eorAbsY, .absyR, 4), (0x5D#8, .eorAbsX, .absxR, 4)] ∧
  ∀ (i : Instr) (s : State), s.Ready →
    (i.mnemonic = .ora → ∃ a t, s.effAddr i.list = some a ∧ exec i s = .next t ∧ s.Kept t ∧
      s.Ran t { s.regs with pc := s.nextPc i, a := s.regs.a ||| s.peek a, p := setNZ (s.regs.a ||| s.peek a) s.regs.p }
        (baseCycles i + (s.pageCrossed i.list).toNat)) ∧
    (i.mnemonic = .and → ∃ a t, s.effAddr i.list = some a ∧ exec i s = .next t ∧ s.Kept t ∧
      s.Ran t { s.regs with pc := s.nextPc i, a := s.regs.a &&& s.peek a, p := setNZ (s.regs.a &&& s.peek a) s.regs.p }
        (baseCycles i + (s.pageCrossed i.list).toNat)) ∧
    (i.mnemonic = .eor → ∃ a t, s.effAddr i.list = some a ∧ exec i s = .next t ∧ s.Kept t ∧
      s.Ran t { s.regs with pc := s.nextPc i, a := s.regs.a ^^^ s.peek a, p := setNZ (s.regs.a ^^^ s.peek a) s.regs.p }
        (baseCycles i + (s.pageCrossed i.list).toNat))

/-- ADC and SBC with D clear: A is the sum, or the sum with the operand's complement, modulo 256; carry says that it passed 255, and V is
set where the operands agree in sign and the result does not (spec R234, R236). -/
def Obligations.BinaryAdcAndSbcAddWithCarry : Prop :=
  Encodings
    [(0x61#8, .adcIndX, .izxR, 6), (0x65#8, .adcZp, .zpR, 3), (0x69#8, .adcImm, .imm, 2), (0x6D#8, .adcAbs, .absR, 4),
     (0x71#8, .adcIndY, .izyR, 5), (0x72#8, .adcInd, .izpR, 5), (0x75#8, .adcZpX, .zpxR, 4), (0x79#8, .adcAbsY, .absyR, 4),
     (0x7D#8, .adcAbsX, .absxR, 4), (0xE1#8, .sbcIndX, .izxR, 6), (0xE5#8, .sbcZp, .zpR, 3), (0xE9#8, .sbcImm, .imm, 2),
     (0xED#8, .sbcAbs, .absR, 4), (0xF1#8, .sbcIndY, .izyR, 5), (0xF2#8, .sbcInd, .izpR, 5), (0xF5#8, .sbcZpX, .zpxR, 4),
     (0xF9#8, .sbcAbsY, .absyR, 4), (0xFD#8, .sbcAbsX, .absxR, 4)] ∧
  ∀ (i : Instr) (s : State), s.Ready → flag bitD s.regs.p = false → (i.mnemonic = .adc ∨ i.mnemonic = .sbc) →
    ∃ a t, s.effAddr i.list = some a ∧ exec i s = .next t ∧ s.Kept t ∧
      let m := if i.mnemonic = .adc then s.peek a else s.peek a ^^^ 0xFF#8
      let r := s.regs.a.toNat + m.toNat + (flag bitC s.regs.p).toNat
      let v := BitVec.ofNat 8 r
      s.Ran t { s.regs with
          pc := s.nextPc i, a := v
          p := setNZ v (setFlag bitV ((~~~(s.regs.a ^^^ m) &&& (s.regs.a ^^^ v) &&& 0x80#8) != 0#8)
            (setFlag bitC (decide (r > 255)) s.regs.p)) }
        (baseCycles i + (s.pageCrossed i.list).toNat)

/-- The V of a binary addition is signed overflow, and that of a subtraction too: set where the exact signed result does not fit (spec
R234, R236). -/
def Obligations.OverflowIsSignedOverflow : Prop :=
  ∀ (a m : Byte) (c : Bool),
    ((addBinary a m c).overflow = true ↔ a.toInt + m.toInt + c.toNat < -128 ∨ 127 < a.toInt + m.toInt + c.toNat) ∧
    ((subBinary a m c).overflow = true ↔
      a.toInt - m.toInt - (1 - c.toNat) < -128 ∨ 127 < a.toInt - m.toInt - (1 - c.toNat)) ∧
    ((subBinary a m c).carry = true ↔ m.toNat + 1 ≤ a.toNat + c.toNat)

/-- ADC and SBC with D set, on BCD operands: A is the two decimal digits of the sum or of the difference modulo 100, C is the decimal carry
or no borrow, Z comes from the result; N and V are free, every other flag is as before, and one extra cycle runs (spec R235, R237,
R242). -/
def Obligations.DecimalAdcAndSbcAddDigits : Prop :=
  ∀ (i : Instr) (s : State) (a : Word), s.Ready → flag bitD s.regs.p = true → (i.mnemonic = .adc ∨ i.mnemonic = .sbc) →
    s.effAddr i.list = some a → isBcd s.regs.a = true → isBcd (s.peek a) = true →
    ∃ t p, exec i s = .next t ∧ s.Kept t ∧
      let value (v : Byte) : Int := 10 * (v.toNat / 16) + v.toNat % 16
      let n := if i.mnemonic = .adc then value s.regs.a + value (s.peek a) + (flag bitC s.regs.p).toNat
        else value s.regs.a - value (s.peek a) - (1 - (flag bitC s.regs.p).toNat)
      let v := BitVec.ofInt 8 (n % 100 / 10 * 16 + n % 100 % 10)
      s.Ran t { s.regs with pc := s.nextPc i, a := v, p := p } (baseCycles i + (s.pageCrossed i.list).toNat + 1) ∧
      flag bitC p = (if i.mnemonic = .adc then decide (n ≥ 100) else decide (n ≥ 0)) ∧ flag bitZ p = (v == 0#8) ∧
      ∀ k, k < 8 → k ≠ bitC → k ≠ bitZ → k ≠ bitN → k ≠ bitV → flag k p = flag k s.regs.p

/-- ADC and SBC with D set, where an operand is not BCD: A, C, Z, N and V are free, everything else is as before, and one extra cycle runs
(spec R235, R237, R242). -/
def Obligations.DecimalOnOtherOperandsLeavesAFree : Prop :=
  ∀ (i : Instr) (s : State) (a : Word), s.Ready → flag bitD s.regs.p = true → (i.mnemonic = .adc ∨ i.mnemonic = .sbc) →
    s.effAddr i.list = some a → (isBcd s.regs.a && isBcd (s.peek a)) = false →
    ∃ t v p, exec i s = .next t ∧ s.Kept t ∧
      s.Ran t { s.regs with pc := s.nextPc i, a := v, p := p } (baseCycles i + (s.pageCrossed i.list).toNat + 1) ∧
      ∀ k, k < 8 → k ≠ bitC → k ≠ bitZ → k ≠ bitN → k ≠ bitV → flag k p = flag k s.regs.p

/-- CMP, CPX and CPY in every form: C says that the register is at least the operand, unsigned; N and Z come from the difference; no
register but PC and P changes (spec R238 to R240). -/
def Obligations.ComparesSetFlagsFromSubtraction : Prop :=
  Encodings
    [(0xC1#8, .cmpIndX, .izxR, 6), (0xC5#8, .cmpZp, .zpR, 3), (0xC9#8, .cmpImm, .imm, 2), (0xCD#8, .cmpAbs, .absR, 4),
     (0xD1#8, .cmpIndY, .izyR, 5), (0xD2#8, .cmpInd, .izpR, 5), (0xD5#8, .cmpZpX, .zpxR, 4), (0xD9#8, .cmpAbsY, .absyR, 4),
     (0xDD#8, .cmpAbsX, .absxR, 4), (0xE0#8, .cpxImm, .imm, 2), (0xE4#8, .cpxZp, .zpR, 3), (0xEC#8, .cpxAbs, .absR, 4),
     (0xC0#8, .cpyImm, .imm, 2), (0xC4#8, .cpyZp, .zpR, 3), (0xCC#8, .cpyAbs, .absR, 4)] ∧
  ∀ (i : Instr) (s : State), s.Ready →
    ∀ r : Byte, (i.mnemonic = .cmp ∧ r = s.regs.a) ∨ (i.mnemonic = .cpx ∧ r = s.regs.x) ∨ (i.mnemonic = .cpy ∧ r = s.regs.y) →
      ∃ a t, s.effAddr i.list = some a ∧ exec i s = .next t ∧ s.Kept t ∧
        s.Ran t { s.regs with
            pc := s.nextPc i
            p := setNZ (r - s.peek a) (setFlag bitC (decide ((s.peek a).toNat ≤ r.toNat)) s.regs.p) }
          (baseCycles i + (s.pageCrossed i.list).toNat)

/-- "BIT with immediate addressing never alters N or V regardless of operand, but always sets Z"; every other form sets N and V from bits
7 and 6 of the operand too (spec R241). -/
def Obligations.BitTestsTheOperand : Prop :=
  Encodings
    [(0x24#8, .bitZp, .zpR, 3), (0x2C#8, .bitAbs, .absR, 4), (0x34#8, .bitZpX, .zpxR, 4), (0x3C#8, .bitAbsX, .absxR, 4),
     (0x89#8, .bitImm, .imm, 2)] ∧
  ∀ (i : Instr) (s : State), s.Ready → i.mnemonic = .bit →
    ∃ a t p, s.effAddr i.list = some a ∧ exec i s = .next t ∧ s.Kept t ∧
      s.Ran t { s.regs with pc := s.nextPc i, p := p } (baseCycles i + (s.pageCrossed i.list).toNat) ∧
      flag bitZ p = (s.regs.a &&& s.peek a == 0#8) ∧
      flag bitN p = (if i = .bitImm then flag bitN s.regs.p else (s.peek a).getLsbD 7) ∧
      flag bitV p = (if i = .bitImm then flag bitV s.regs.p else (s.peek a).getLsbD 6) ∧
      ∀ k, k < 8 → k ≠ bitZ → k ≠ bitN → k ≠ bitV → flag k p = flag k s.regs.p

/-! ### Shifts, increments, bit manipulation -/

/-- ASL, LSR, ROL and ROR on A: two cycles; the bit shifted out goes to C, a rotate brings C in, N and Z come from the result (spec R261
to R264). -/
def Obligations.ShiftsOfAGoThroughCarry : Prop :=
  Encodings
    [(0x0A#8, .aslA, .imp, 2), (0x4A#8, .lsrA, .imp, 2), (0x2A#8, .rolA, .imp, 2), (0x6A#8, .rorA, .imp, 2)] ∧
  ∀ s : State, s.Ready →
    let a := s.regs.a
    let c := flag bitC s.regs.p
    (∃ t, exec .aslA s = .next t ∧ s.Kept t ∧
      s.Ran t { s.regs with a := a <<< 1, p := setNZ (a <<< 1) (setFlag bitC (a.getLsbD 7) s.regs.p) } 2) ∧
    (∃ t, exec .lsrA s = .next t ∧ s.Kept t ∧
      s.Ran t { s.regs with a := a >>> 1, p := setNZ (a >>> 1) (setFlag bitC (a.getLsbD 0) s.regs.p) } 2) ∧
    (∃ t, exec .rolA s = .next t ∧ s.Kept t ∧
      let v := a <<< 1 ||| (if c then 1#8 else 0#8)
      s.Ran t { s.regs with a := v, p := setNZ v (setFlag bitC (a.getLsbD 7) s.regs.p) } 2) ∧
    (∃ t, exec .rorA s = .next t ∧ s.Kept t ∧
      let v := a >>> 1 ||| (if c then 0x80#8 else 0#8)
      s.Ran t { s.regs with a := v, p := setNZ v (setFlag bitC (a.getLsbD 0) s.regs.p) } 2)

/-- INC A, DEC A, INX, INY, DEX and DEY: two cycles, modulo 256, N and Z from the result (spec R265 to R270). -/
def Obligations.RegisterIncrementsWrap : Prop :=
  Encodings
    [(0x1A#8, .incA, .imp, 2), (0x3A#8, .decA, .imp, 2), (0xE8#8, .inx, .imp, 2), (0xC8#8, .iny, .imp, 2),
     (0xCA#8, .dex, .imp, 2), (0x88#8, .dey, .imp, 2)] ∧
  ∀ s : State, s.Ready →
    (∃ t, exec .incA s = .next t ∧ s.Kept t ∧
      s.Ran t { s.regs with a := s.regs.a + 1#8, p := setNZ (s.regs.a + 1#8) s.regs.p } 2) ∧
    (∃ t, exec .decA s = .next t ∧ s.Kept t ∧
      s.Ran t { s.regs with a := s.regs.a - 1#8, p := setNZ (s.regs.a - 1#8) s.regs.p } 2) ∧
    (∃ t, exec .inx s = .next t ∧ s.Kept t ∧
      s.Ran t { s.regs with x := s.regs.x + 1#8, p := setNZ (s.regs.x + 1#8) s.regs.p } 2) ∧
    (∃ t, exec .iny s = .next t ∧ s.Kept t ∧
      s.Ran t { s.regs with y := s.regs.y + 1#8, p := setNZ (s.regs.y + 1#8) s.regs.p } 2) ∧
    (∃ t, exec .dex s = .next t ∧ s.Kept t ∧
      s.Ran t { s.regs with x := s.regs.x - 1#8, p := setNZ (s.regs.x - 1#8) s.regs.p } 2) ∧
    (∃ t, exec .dey s = .next t ∧ s.Kept t ∧
      s.Ran t { s.regs with y := s.regs.y - 1#8, p := setNZ (s.regs.y - 1#8) s.regs.p } 2)

/-- ASL, LSR, ROL and ROR in memory: the shifted byte is stored at the effective address, flags as for A, no register but PC and P
changes, and no extra cycle (spec R260 to R264). That a device that is not RAM drops a stored byte is the model's choice (log entry 12).
-/
def Obligations.ShiftsOfMemoryStoreTheResult : Prop :=
  Encodings
    [(0x06#8, .aslZp, .zpRmw, 5), (0x0E#8, .aslAbs, .absRmw, 6), (0x16#8, .aslZpX, .zpxRmw, 6),
     (0x1E#8, .aslAbsX, .absxRmw, 7), (0x46#8, .lsrZp, .zpRmw, 5), (0x4E#8, .lsrAbs, .absRmw, 6),
     (0x56#8, .lsrZpX, .zpxRmw, 6), (0x5E#8, .lsrAbsX, .absxRmw, 7), (0x26#8, .rolZp, .zpRmw, 5),
     (0x2E#8, .rolAbs, .absRmw, 6), (0x36#8, .rolZpX, .zpxRmw, 6), (0x3E#8, .rolAbsX, .absxRmw, 7),
     (0x66#8, .rorZp, .zpRmw, 5), (0x6E#8, .rorAbs, .absRmw, 6), (0x76#8, .rorZpX, .zpxRmw, 6), (0x7E#8, .rorAbsX, .absxRmw, 7)] ∧
  ∀ (i : Instr) (s : State), s.Ready → i.list ≠ .imp →
    ∀ result : Byte → Byte, ∀ out : Nat,
      (i.mnemonic = .asl ∧ out = 7 ∧ result = fun m : Byte => m <<< 1) ∨
      (i.mnemonic = .lsr ∧ out = 0 ∧ result = fun m : Byte => m >>> 1) ∨
      (i.mnemonic = .rol ∧ out = 7 ∧ result = fun m : Byte => m <<< 1 ||| (if flag bitC s.regs.p then 1#8 else 0#8)) ∨
      (i.mnemonic = .ror ∧ out = 0 ∧ result = fun m : Byte => m >>> 1 ||| (if flag bitC s.regs.p then 0x80#8 else 0#8)) →
      ∃ a t, s.effAddr i.list = some a ∧ exec i s = .next t ∧ s.Stored t a (result (s.peek a)) ∧
        s.Ran t { s.regs with
            pc := s.nextPc i
            p := setNZ (result (s.peek a)) (setFlag bitC ((s.peek a).getLsbD out) s.regs.p) }
          (baseCycles i)

/-- INC and DEC in memory: modulo 256, N and Z from the result, C and V as before (spec R260, R265, R266). That a device that is not RAM
drops a stored byte is the model's choice (log entry 12). -/
def Obligations.MemoryIncrementsWrap : Prop :=
  Encodings
    [(0xE6#8, .incZp, .zpRmw, 5), (0xEE#8, .incAbs, .absRmw, 6), (0xF6#8, .incZpX, .zpxRmw, 6),
     (0xFE#8, .incAbsX, .absxRmw, 7), (0xC6#8, .decZp, .zpRmw, 5), (0xCE#8, .decAbs, .absRmw, 6),
     (0xD6#8, .decZpX, .zpxRmw, 6), (0xDE#8, .decAbsX, .absxRmw, 7)] ∧
  ∀ (i : Instr) (s : State), s.Ready → i.list ≠ .imp →
    (i.mnemonic = .inc → ∃ a t, s.effAddr i.list = some a ∧ exec i s = .next t ∧ s.Stored t a (s.peek a + 1#8) ∧
      s.Ran t { s.regs with pc := s.nextPc i, p := setNZ (s.peek a + 1#8) s.regs.p } (baseCycles i)) ∧
    (i.mnemonic = .dec → ∃ a t, s.effAddr i.list = some a ∧ exec i s = .next t ∧ s.Stored t a (s.peek a - 1#8) ∧
      s.Ran t { s.regs with pc := s.nextPc i, p := setNZ (s.peek a - 1#8) s.regs.p } (baseCycles i))

/-- TSB and TRB: Z from A AND the old byte, and the byte with A's bits set or reset is stored (spec R271, R272). That a device that is not
RAM drops a stored byte is the model's choice (log entry 12). -/
def Obligations.TsbAndTrbTestThenModify : Prop :=
  Encodings
    [(0x04#8, .tsbZp, .zpRmw, 5), (0x0C#8, .tsbAbs, .absRmw, 6), (0x14#8, .trbZp, .zpRmw, 5), (0x1C#8, .trbAbs, .absRmw, 6)] ∧
  ∀ (i : Instr) (s : State), s.Ready →
    (i.mnemonic = .tsb → ∃ a t, s.effAddr i.list = some a ∧ exec i s = .next t ∧ s.Stored t a (s.peek a ||| s.regs.a) ∧
      s.Ran t { s.regs with pc := s.nextPc i, p := setFlag bitZ (s.regs.a &&& s.peek a == 0#8) s.regs.p } (baseCycles i)) ∧
    (i.mnemonic = .trb → ∃ a t, s.effAddr i.list = some a ∧ exec i s = .next t ∧ s.Stored t a (s.peek a &&& ~~~s.regs.a) ∧
      s.Ran t { s.regs with pc := s.nextPc i, p := setFlag bitZ (s.regs.a &&& s.peek a == 0#8) s.regs.p } (baseCycles i))

/-- RMBb and SMBb: five cycles; the zero-page byte with bit b reset or set is stored, and no flag changes (spec R273, R274). That a device
that is not RAM drops a stored byte is the model's choice (log entry 12). -/
def Obligations.RmbAndSmbChangeOneBit : Prop :=
  Encodings
    [(0x07#8, .rmb0, .zpRmw, 5), (0x17#8, .rmb1, .zpRmw, 5), (0x27#8, .rmb2, .zpRmw, 5), (0x37#8, .rmb3, .zpRmw, 5),
     (0x47#8, .rmb4, .zpRmw, 5), (0x57#8, .rmb5, .zpRmw, 5), (0x67#8, .rmb6, .zpRmw, 5), (0x77#8, .rmb7, .zpRmw, 5),
     (0x87#8, .smb0, .zpRmw, 5), (0x97#8, .smb1, .zpRmw, 5), (0xA7#8, .smb2, .zpRmw, 5), (0xB7#8, .smb3, .zpRmw, 5),
     (0xC7#8, .smb4, .zpRmw, 5), (0xD7#8, .smb5, .zpRmw, 5), (0xE7#8, .smb6, .zpRmw, 5), (0xF7#8, .smb7, .zpRmw, 5)] ∧
  ∀ (i : Instr) (s : State) (b : Fin 8), s.Ready → i.mnemonic = .rmb b ∨ i.mnemonic = .smb b →
    ∃ t v, exec i s = .next t ∧ s.Stored t (zpAddr s.operand1) v ∧ s.Ran t { s.regs with pc := s.nextPc i } 5 ∧
      ∀ k, k < 8 → v.getLsbD k = if k = b.val then decide (i.mnemonic = .smb b) else (s.peek (zpAddr s.operand1)).getLsbD k

/-! ### Branches, jumps, subroutines, BRK -/

/-- The eight conditional branches and BRA: PC is the target where the branch is taken and the next instruction's address where it is
not; two cycles, one more when taken, one more when the target is in another page. The condition of a conditional branch is
`P[f] == v`, with f from bits 7 and 6 of the opcode and v its bit 5 (spec R290 to R299). -/
def Obligations.BranchesGoToTheirTarget : Prop :=
  Encodings
    [(0x10#8, .bpl, .rel, 2), (0x30#8, .bmi, .rel, 2), (0x50#8, .bvc, .rel, 2), (0x70#8, .bvs, .rel, 2),
     (0x90#8, .bcc, .rel, 2), (0xB0#8, .bcs, .rel, 2), (0xD0#8, .bne, .rel, 2), (0xF0#8, .beq, .rel, 2),
     (0x80#8, .bra, .rel, 2)] ∧
  ∀ (i : Instr) (s : State) (taken : Bool), s.Ready → i.list = .rel →
    taken = (decide (i = .bra) ||
      (flag (if i.opcode.getLsbD 7 then (if i.opcode.getLsbD 6 then bitZ else bitC) else (if i.opcode.getLsbD 6 then bitV else bitN))
        s.regs.p == i.opcode.getLsbD 5)) →
    ∃ t, exec i s = .next t ∧ s.Kept t ∧
      s.Ran t { s.regs with pc := if taken then branchTarget (s.nextPc i) s.operand1 else s.nextPc i }
        (2 + branchExtra taken (s.nextPc i) (branchTarget (s.nextPc i) s.operand1))

/-- BBRb and BBSb: taken where bit b of the zero-page byte is 0, or 1; five cycles and the extra ones of a branch; no flag changes (spec
R300, R301). -/
def Obligations.BitBranchesTestTheZeroPage : Prop :=
  Encodings
    [(0x0F#8, .bbr0, .zpRel, 5), (0x1F#8, .bbr1, .zpRel, 5), (0x2F#8, .bbr2, .zpRel, 5), (0x3F#8, .bbr3, .zpRel, 5),
     (0x4F#8, .bbr4, .zpRel, 5), (0x5F#8, .bbr5, .zpRel, 5), (0x6F#8, .bbr6, .zpRel, 5), (0x7F#8, .bbr7, .zpRel, 5),
     (0x8F#8, .bbs0, .zpRel, 5), (0x9F#8, .bbs1, .zpRel, 5), (0xAF#8, .bbs2, .zpRel, 5), (0xBF#8, .bbs3, .zpRel, 5),
     (0xCF#8, .bbs4, .zpRel, 5), (0xDF#8, .bbs5, .zpRel, 5), (0xEF#8, .bbs6, .zpRel, 5), (0xFF#8, .bbs7, .zpRel, 5)] ∧
  ∀ (i : Instr) (s : State) (b : Fin 8) (taken : Bool), s.Ready →
    (i.mnemonic = .bbr b ∧ taken = !(s.peek (zpAddr s.operand1)).getLsbD b.val) ∨
      (i.mnemonic = .bbs b ∧ taken = (s.peek (zpAddr s.operand1)).getLsbD b.val) →
    ∃ t, exec i s = .next t ∧ s.Kept t ∧
      s.Ran t { s.regs with pc := if taken then branchTarget (s.nextPc i) s.operand2 else s.nextPc i }
        (5 + branchExtra taken (s.nextPc i) (branchTarget (s.nextPc i) s.operand2))

/-- JMP in its three forms: PC is the operand, the word at the operand, or the word at the operand plus X, the pointer crossing pages and
wrapping at $FFFF (spec R302 to R304). -/
def Obligations.JumpsGoToTheirTarget : Prop :=
  Encodings
    [(0x4C#8, .jmpAbs, .jmpAbs, 3), (0x6C#8, .jmpInd, .jmpInd, 6), (0x7C#8, .jmpIndX, .jmpIax, 6)] ∧
  ∀ s : State, s.Ready →
    (∃ t, exec .jmpAbs s = .next t ∧ s.Kept t ∧ s.Ran t { s.regs with pc := join s.operand2 s.operand1 } 3) ∧
    (∃ t, exec .jmpInd s = .next t ∧ s.Kept t ∧
      s.Ran t { s.regs with pc := join (s.peek (s.absOperand + 1#16)) (s.peek s.absOperand) } 6) ∧
    (∃ t, exec .jmpIndX s = .next t ∧ s.Kept t ∧
      s.Ran t { s.regs with pc := join (s.peek (indexed s.absOperand s.regs.x + 1#16)) (s.peek (indexed s.absOperand s.regs.x)) } 6)

/-- JSR pushes the address of its last byte, high byte first, and goes to its operand; the operand's high byte is read after the pushes
(spec R305). That a device that is not RAM drops a stored byte is the model's choice (log entry 12). -/
def Obligations.JsrPushesItsLastAddress : Prop :=
  Encodings [(0x20#8, .jsr, .jsr, 6)] ∧
  ∀ s : State, s.Ready →
    ∃ t, exec .jsr s = .next t ∧
      s.Pushed2 t s.regs.s (hiByte (s.regs.pc + 1#16)) (loByte (s.regs.pc + 1#16)) ∧
      s.Ran t { s.regs with pc := join (t.peek (s.regs.pc + 1#16)) s.operand1, s := s.regs.s - 2#8 } 6

/-- RTS pulls an address, low byte first, and goes one past it; the stack pointer wraps inside the page (spec R306). -/
def Obligations.RtsGoesPastThePulledAddress : Prop :=
  Encodings [(0x60#8, .rts, .rts, 6)] ∧
  ∀ s : State, s.Ready →
    ∃ t, exec .rts s = .next t ∧ s.Kept t ∧
      s.Ran t { s.regs with
          pc := join (s.peek (stackAddr (s.regs.s + 2#8))) (s.peek (stackAddr (s.regs.s + 1#8))) + 1#16
          s := s.regs.s + 2#8 } 6

/-- RTI pulls all eight bits of P, then PC, which is not adjusted (spec R307, R380). -/
def Obligations.RtiRestoresStatusAndPc : Prop :=
  Encodings [(0x40#8, .rti, .rti, 6)] ∧
  ∀ s : State, s.Ready →
    ∃ t, exec .rti s = .next t ∧ s.Kept t ∧
      s.Ran t { s.regs with
          pc := join (s.peek (stackAddr (s.regs.s + 3#8))) (s.peek (stackAddr (s.regs.s + 2#8)))
          s := s.regs.s + 3#8
          p := s.peek (stackAddr (s.regs.s + 1#8)) } 6

/-- BRK pushes the address two past its opcode and P with bits 5 and 4 set, sets I, clears D and goes to the word at $FFFE (spec R308).
That a device that is not RAM drops a stored byte is the model's choice (log entry 12). -/
def Obligations.BrkEntersThroughItsVector : Prop :=
  Encodings [(0x00#8, .brk, .brk, 7)] ∧
  ∀ s : State, s.Ready →
    ∃ t, exec .brk s = .next t ∧
      s.Pushed3 t s.regs.s (hiByte (s.regs.pc + 1#16)) (loByte (s.regs.pc + 1#16)) (s.regs.p ||| 0x30#8) ∧
      s.Ran t { s.regs with
          pc := join (s.peek 0xFFFF#16) (s.peek 0xFFFE#16)
          s := s.regs.s - 3#8
          p := setFlag bitD false (setFlag bitI true s.regs.p) } 7

/-! ### Stack, flags, no-ops, WAI and STP -/

/-- PHA, PHX, PHY and PHP: three cycles; the byte is stored at $01:S and S goes down by one, modulo 256; PHP's byte is P with bits 5 and 4
set (spec R330 to R333). That a device that is not RAM drops the byte is the model's choice (log entry 12). -/
def Obligations.PushesStoreOnTheStack : Prop :=
  Encodings
    [(0x48#8, .pha, .push, 3), (0xDA#8, .phx, .push, 3), (0x5A#8, .phy, .push, 3), (0x08#8, .php, .php, 3)] ∧
  ∀ s : State, s.Ready →
    ∀ (i : Instr) (v : Byte), (i = .pha ∧ v = s.regs.a) ∨ (i = .phx ∧ v = s.regs.x) ∨ (i = .phy ∧ v = s.regs.y) ∨
        (i = .php ∧ v = s.regs.p ||| 0x30#8) →
      ∃ t, exec i s = .next t ∧ s.Stored t (stackAddr s.regs.s) v ∧ s.Ran t { s.regs with s := s.regs.s - 1#8 } 3

/-- PLA, PLX, PLY and PLP: four cycles; S goes up by one, modulo 256, and the byte there is pulled; PLP takes all eight bits of P (spec
R334 to R337). -/
def Obligations.PullsReadFromTheStack : Prop :=
  Encodings
    [(0x68#8, .pla, .pull, 4), (0xFA#8, .plx, .pull, 4), (0x7A#8, .ply, .pull, 4), (0x28#8, .plp, .plp, 4)] ∧
  ∀ s : State, s.Ready →
    let v := s.peek (stackAddr (s.regs.s + 1#8))
    (∃ t, exec .pla s = .next t ∧ s.Kept t ∧ s.Ran t { s.regs with s := s.regs.s + 1#8, a := v, p := setNZ v s.regs.p } 4) ∧
    (∃ t, exec .plx s = .next t ∧ s.Kept t ∧ s.Ran t { s.regs with s := s.regs.s + 1#8, x := v, p := setNZ v s.regs.p } 4) ∧
    (∃ t, exec .ply s = .next t ∧ s.Kept t ∧ s.Ran t { s.regs with s := s.regs.s + 1#8, y := v, p := setNZ v s.regs.p } 4) ∧
    (∃ t, exec .plp s = .next t ∧ s.Kept t ∧ s.Ran t { s.regs with s := s.regs.s + 1#8, p := v } 4)

/-- CLC, SEC, CLI, SEI, CLD, SED and CLV: two cycles; the one flag becomes 0 or 1 and every other is as before (spec R338 to R344). -/
def Obligations.FlagInstructionsSetTheirFlag : Prop :=
  Encodings
    [(0x18#8, .clc, .imp, 2), (0x38#8, .sec, .imp, 2), (0x58#8, .cli, .imp, 2), (0x78#8, .sei, .imp, 2),
     (0xD8#8, .cld, .imp, 2), (0xF8#8, .sed, .imp, 2), (0xB8#8, .clv, .imp, 2)] ∧
  ∀ s : State, s.Ready →
    ∀ (i : Instr) (k : Nat) (b : Bool), (i = .clc ∧ k = 0 ∧ b = false) ∨ (i = .sec ∧ k = 0 ∧ b = true) ∨
        (i = .cli ∧ k = 2 ∧ b = false) ∨ (i = .sei ∧ k = 2 ∧ b = true) ∨ (i = .cld ∧ k = 3 ∧ b = false) ∨
        (i = .sed ∧ k = 3 ∧ b = true) ∨ (i = .clv ∧ k = 6 ∧ b = false) →
      ∃ t p, exec i s = .next t ∧ s.Kept t ∧ s.Ran t { s.regs with p := p } 2 ∧
        ∀ j, j < 8 → p.getLsbD j = if j = k then b else s.regs.p.getLsbD j

/-- NOP and each of the 44 undefined opcodes: PC moves past the instruction and nothing else changes, in as many cycles as its list has
(spec R345, R346). -/
def Obligations.NoOpsOnlyAdvance : Prop :=
  Encodings
    [(0xEA#8, .nop, .imp, 2), (0x02#8, .und02, .nopImm, 2), (0x03#8, .und03, .nop1, 1), (0x0B#8, .und0B, .nop1, 1),
     (0x13#8, .und13, .nop1, 1), (0x1B#8, .und1B, .nop1, 1), (0x22#8, .und22, .nopImm, 2), (0x23#8, .und23, .nop1, 1),
     (0x2B#8, .und2B, .nop1, 1), (0x33#8, .und33, .nop1, 1), (0x3B#8, .und3B, .nop1, 1), (0x42#8, .und42, .nopImm, 2),
     (0x43#8, .und43, .nop1, 1), (0x44#8, .und44, .nopZp, 3), (0x4B#8, .und4B, .nop1, 1), (0x53#8, .und53, .nop1, 1),
     (0x54#8, .und54, .nopZpx, 4), (0x5B#8, .und5B, .nop1, 1), (0x5C#8, .und5C, .nop5c, 8), (0x62#8, .und62, .nopImm, 2),
     (0x63#8, .und63, .nop1, 1), (0x6B#8, .und6B, .nop1, 1), (0x73#8, .und73, .nop1, 1), (0x7B#8, .und7B, .nop1, 1),
     (0x82#8, .und82, .nopImm, 2), (0x83#8, .und83, .nop1, 1), (0x8B#8, .und8B, .nop1, 1), (0x93#8, .und93, .nop1, 1),
     (0x9B#8, .und9B, .nop1, 1), (0xA3#8, .undA3, .nop1, 1), (0xAB#8, .undAB, .nop1, 1), (0xB3#8, .undB3, .nop1, 1),
     (0xBB#8, .undBB, .nop1, 1), (0xC2#8, .undC2, .nopImm, 2), (0xC3#8, .undC3, .nop1, 1), (0xD3#8, .undD3, .nop1, 1),
     (0xD4#8, .undD4, .nopZpx, 4), (0xDC#8, .undDC, .nopAbs, 4), (0xE2#8, .undE2, .nopImm, 2), (0xE3#8, .undE3, .nop1, 1),
     (0xEB#8, .undEB, .nop1, 1), (0xF3#8, .undF3, .nop1, 1), (0xF4#8, .undF4, .nopZpx, 4), (0xFB#8, .undFB, .nop1, 1),
     (0xFC#8, .undFC, .nopAbs, 4)] ∧
  ∀ (i : Instr) (s : State), s.Ready → i.mnemonic = .nop ∨ i.mnemonic = .undefinedNop →
    ∃ t, exec i s = .next t ∧ s.Kept t ∧ s.Ran t { s.regs with pc := s.nextPc i } (baseCycles i)

/-- WAI by its parameter. Under `nop` it is a three-cycle no-op. Under `wait_for_irq` it is the same where IRQB is asserted and masked; where
IRQB is not asserted it waits at its INTERNAL cycle, and each step counts one more cycle of the wait until IRQB is asserted, when the
step completes it, whatever I is. Under `refuse`, the default, the model stops and reports it (spec R347). -/
def Obligations.WaiFollowsItsParameter : Prop :=
  Encodings [(0xCB#8, .wai, .wai, 3)] ∧
  (∀ s : State, s.Ready →
    (s.waiSemantics = .nop → ∃ t, exec .wai s = .next t ∧ s.Kept t ∧ s.Ran t s.regs 3) ∧
    (s.waiSemantics = .waitForIrq → s.bp.irqb.level = false → ∃ t, exec .wai s = .next t ∧ s.Kept t ∧ s.Ran t s.regs 3) ∧
    (s.waiSemantics = .waitForIrq → s.bp.irqb.level = true → ∃ t, exec .wai s = .next t ∧ s.Kept t ∧ t.regs = s.regs ∧ t.Waiting ∧
      t.bp.irqb.level = true ∧ t.eng.cycles = s.eng.cycles + 2) ∧
    (s.waiSemantics = .refuse → exec .wai s = .refused .waiExecuted)) ∧
  (∀ s : State, s.Waiting →
    (s.bp.irqb.level = true → ∃ t, step s = .next t ∧ s.Kept t ∧ t.regs = s.regs ∧ t.Waiting ∧ t.bp.irqb.level = true ∧
      t.eng.cycles = s.eng.cycles + 1) ∧
    (s.bp.irqb.level = false → ∃ t, step s = .next t ∧ s.Kept t ∧ s.Ran t s.regs 2))

/-- STP stops the CPU within its second cycle, with every register and all of memory as they were (spec R178, R348). -/
def Obligations.StpStopsTheCpu : Prop :=
  Encodings [(0xDB#8, .stp, .stp, 2)] ∧
  ∀ s : State, s.Ready →
    ∃ t, exec .stp s = .next t ∧ s.Kept t ∧ t.regs = s.regs ∧ t.eng.stopped = true ∧ t.eng.cycles = s.eng.cycles + 1 ∧
      t.eng.idx = 0 ∧ t.eng.pending = some (.instr .stp) ∧ t.eng.mode = .none

/-- A stopped CPU stays stopped while RESB is not asserted: a step leaves its registers, latches and control state as they are (spec R161,
R348). -/
def Obligations.StoppedCpuStaysStopped : Prop :=
  ∀ s : State, s.script = [] → s.bp.phi2.level = true → s.eng.stopped = true → s.bp.resb.level = true →
    ∃ t, step s = .next t ∧ t.regs = s.regs ∧ t.latch = s.latch ∧ t.eng = s.eng

/-! ### Interrupts -/

/-- An IRQ asserted while I is clear takes the place of the fetched instruction, whatever it is (spec R165, R168, R373 to R378). That a
device that is not RAM drops a stored byte is the model's choice (log entry 12). -/
def Obligations.IrqTakesTheInstructionsPlace : Prop :=
  ∀ (i : Instr) (s : State), s.Interruptible → s.eng.mode = .none → s.bp.irqb.level = false → flag bitI s.regs.p = false →
    ∃ t, exec i s = .next t ∧ s.Entered t 0xFFFE#16

/-- A latched RESET, IRQ or NMI takes the place of the fetched instruction, through its own vector (spec R40, R373 to R378, R400). That a
device that is not RAM drops a stored byte is the model's choice (log entry 12). -/
def Obligations.LatchedInterruptEntersThroughItsVector : Prop :=
  ∀ (i : Instr) (s : State) (v : Word), s.Interruptible →
    (s.eng.mode = .reset ∧ v = 0xFFFC#16) ∨ (s.eng.mode = .irq ∧ v = 0xFFFE#16) ∨ (s.eng.mode = .nmi ∧ v = 0xFFFA#16) →
    ∃ t, exec i s = .next t ∧ s.Entered t v

/-- With IRQB asserted, CLI runs and the very next step is interrupt entry: "there is no one-instruction delay" (spec R181, R340). That a
device that is not RAM drops a stored byte is the model's choice (log entry 12). -/
def Obligations.CliAdmitsAnAssertedIrqAtOnce : Prop :=
  ∀ s : State, s.Interruptible → s.eng.mode = .none → s.bp.irqb.level = false → flag bitI s.regs.p = true →
    ∃ t u, exec .cli s = .next t ∧
      t.regs = { s.regs with pc := s.regs.pc + 1#16, p := setFlag bitI false s.regs.p } ∧
      step t = .next u ∧ t.Entered u 0xFFFE#16

/-! ### Whole-machine rules -/

/-- Every step keeps the engine's invariant: IDX is inside LIST, a deferred effect is due only at a boundary, EXTRA is at most 2, NMI is
never latched, interrupt entry runs with its cause latched, and every memory is in canonical form. -/
def Obligations.EveryStepKeepsTheInvariant : Prop :=
  ∀ s t : State, s.Inv → step s = .next t → t.Inv

/-- The invariant holds right after reset. -/
def Obligations.ResetHasTheInvariant : Prop := State.reset.Inv

/-- No step faults in a state with the invariant: the closed tables leave no unrecognized micro-operation (spec R139, R370). -/
def Obligations.NoStepFaults : Prop :=
  ∀ (s : State) (f : Fault), s.Inv → step s ≠ .fault f

/-- Every instruction but STP, and WAI where it waits or stops the model, completes, in its list's cycles and at most two more, and the next
opcode has been fetched. This holds with IRQB not asserted, and with IRQB asserted and I set, which masks it (spec R109, R136, R372). -/
def Obligations.EveryInstructionCompletes : Prop :=
  ∀ (i : Instr) (s : State), s.Ready → i ≠ .stp →
    (i = .wai → s.waiSemantics = .nop ∨ s.waiSemantics = .waitForIrq ∧ s.bp.irqb.level = false) →
    ∃ t r n, exec i s = .next t ∧ s.Ran t r n ∧ baseCycles i ≤ n ∧ n ≤ baseCycles i + 2

/-- An instruction whose list has no write cycle leaves every byte of memory as it was. -/
def Obligations.OnlyWriteCyclesChangeMemory : Prop :=
  ∀ (i : Instr) (s t : State), s.Ready → (∀ c ∈ cyclesOf i.list, c.rw = .read) → exec i s = .next t → s.Kept t

/-- "Only TXS, pushes, pulls, JSR, RTS, RTI, BRK and interrupt entry write S" (spec R23). -/
def Obligations.OnlyStackInstructionsWriteS : Prop :=
  ∀ (i : Instr) (s t : State), s.Ready → exec i s = .next t → t.regs.s ≠ s.regs.s →
    i.mnemonic ∈ [.txs, .pha, .phx, .phy, .php, .pla, .plx, .ply, .plp, .jsr, .rts, .rti, .brk]

/-- The flags with few writers: bits 5 and 4 change only by PLP and RTI, D also by SED, CLD and BRK, I also by SEI, CLI and BRK, V by ADC,
SBC, BIT, CLV, PLP and RTI (spec R27). -/
def Obligations.StatusBitsHaveTheirWriters : Prop :=
  ∀ (i : Instr) (s t : State), s.Ready → exec i s = .next t →
    (flag bitR t.regs.p ≠ flag bitR s.regs.p → i.mnemonic ∈ [.plp, .rti]) ∧
    (flag bitB t.regs.p ≠ flag bitB s.regs.p → i.mnemonic ∈ [.plp, .rti]) ∧
    (flag bitD t.regs.p ≠ flag bitD s.regs.p → i.mnemonic ∈ [.sed, .cld, .brk, .plp, .rti]) ∧
    (flag bitI t.regs.p ≠ flag bitI s.regs.p → i.mnemonic ∈ [.sei, .cli, .brk, .plp, .rti]) ∧
    (flag bitV t.regs.p ≠ flag bitV s.regs.p → i.mnemonic ∈ [.adc, .sbc, .bit, .clv, .plp, .rti])
end

