-- ==== Sys2Proof/Laws/Memory.lean ====
section
/-!
SUPPORT. Laws of memory and devices: a read after a write, the canonical form, what a platform of plain memory answers, what a store
changes.
-/

namespace Sys2Proof.Machine

/-! ### Memory -/

theorem Memory.read_filter_ne (m : Memory) (a b : Nat) (h : b ≠ a) :
    Memory.read (m.filter fun c => c.1 != a) b = Memory.read m b := by
  induction m with
  | nil => rfl
  | cons c m ih =>
    obtain ⟨k, v⟩ := c
    by_cases hk : k = a
    · subst hk; simp [Memory.read, ih, Ne.symm h]
    · simp [Memory.read, ih, hk]

theorem Memory.read_filter_self (m : Memory) (a : Nat) :
    Memory.read (m.filter fun c => c.1 != a) a = Config.unwrittenByte := by
  induction m with
  | nil => rfl
  | cons c m ih =>
    obtain ⟨k, v⟩ := c
    by_cases hk : k = a
    · subst hk; simpa using ih
    · simp [Memory.read, ih, hk]

theorem Memory.read_insert_self (m : Memory) (a : Nat) (v : Byte) (h : ∀ c ∈ m, c.1 ≠ a) :
    Memory.read (Memory.insert m a v) a = v := by
  induction m with
  | nil => simp [Memory.insert, Memory.read]
  | cons c m ih =>
    obtain ⟨k, w⟩ := c
    have hk : k ≠ a := h (k, w) (by simp)
    simp only [Memory.insert]
    split <;> simp_all [Memory.read]

theorem Memory.read_insert_ne (m : Memory) (a b : Nat) (v : Byte) (h : b ≠ a) :
    Memory.read (Memory.insert m a v) b = Memory.read m b := by
  induction m with
  | nil => simp [Memory.insert, Memory.read, Ne.symm h]
  | cons c m ih =>
    obtain ⟨k, w⟩ := c
    simp only [Memory.insert]
    split <;> simp_all [Memory.read, Ne.symm h]

theorem Memory.filter_avoids (m : Memory) (a : Nat) : ∀ c ∈ m.filter (fun c => c.1 != a), c.1 ≠ a := by
  intro c hc; simpa using (List.mem_filter.1 hc).2

/-- A read of the address just written gives the value written. -/
theorem Memory.read_write_self (m : Memory) (a : Nat) (v : Byte) : Memory.read (Memory.write m a v) a = v := by
  simp only [Memory.write]
  split
  · next h => rw [Memory.read_filter_self, h]
  · exact Memory.read_insert_self _ _ _ (Memory.filter_avoids m a)

/-- A write leaves every other address alone. -/
theorem Memory.read_write_ne (m : Memory) (a b : Nat) (v : Byte) (h : b ≠ a) :
    Memory.read (Memory.write m a v) b = Memory.read m b := by
  simp only [Memory.write]
  split
  · exact Memory.read_filter_ne m a b h
  · rw [Memory.read_insert_ne _ _ _ _ h, Memory.read_filter_ne m a b h]

theorem Memory.insert_mem {m : Memory} {a : Nat} {v : Byte} {c : Host.Cell} (h : c ∈ Memory.insert m a v) :
    c = (a, v) ∨ c ∈ m := by
  induction m with
  | nil => simpa [Memory.insert] using h
  | cons d m ih =>
    obtain ⟨k, w⟩ := d
    simp only [Memory.insert] at h
    split at h
    · simpa using h
    · rcases List.mem_cons.1 h with h | h
      · exact .inr (by simp [h])
      · rcases ih h with h | h
        · exact .inl h
        · exact .inr (List.mem_cons_of_mem _ h)

theorem Memory.insert_pairwise {m : Memory} {a : Nat} {v : Byte} (h : m.Pairwise fun c d => c.1 < d.1)
    (ha : ∀ c ∈ m, c.1 ≠ a) : (Memory.insert m a v).Pairwise fun c d => c.1 < d.1 := by
  induction m with
  | nil => simp [Memory.insert]
  | cons d m ih =>
    obtain ⟨k, w⟩ := d
    have hk : k ≠ a := ha (k, w) (by simp)
    have h' := List.pairwise_cons.1 h
    simp only [Memory.insert]
    split
    · next hlt =>
      refine List.pairwise_cons.2 ⟨?_, h⟩
      intro c hc
      rcases List.mem_cons.1 hc with rfl | hc
      · exact hlt
      · exact Nat.lt_trans hlt (h'.1 c hc)
    · next hlt =>
      refine List.pairwise_cons.2 ⟨?_, ih h'.2 fun c hc => ha c (List.mem_cons_of_mem _ hc)⟩
      intro c hc
      rcases Memory.insert_mem hc with rfl | hc
      · simp only at hlt ⊢; omega
      · exact h'.1 c hc

theorem Memory.wf_iff (m : Memory) : Memory.wf m = true ↔
    (m.Pairwise fun c d => c.1 < d.1) ∧ ∀ c ∈ m, c.1 < 2 ^ 16 ∧ c.2 ≠ Config.unwrittenByte := by
  simp [Memory.wf]

/-- Every write keeps the canonical form. -/
theorem Memory.wf_write {m : Memory} {a : Nat} {v : Byte} (h : Memory.wf m = true) (ha : a < 2 ^ 16) :
    Memory.wf (Memory.write m a v) = true := by
  rw [Memory.wf_iff] at h ⊢
  have hp := h.1.filter (fun c => c.1 != a)
  simp only [Memory.write]
  split
  · exact ⟨hp, fun c hc => h.2 c (List.mem_filter.1 hc).1⟩
  · next hv =>
    refine ⟨Memory.insert_pairwise hp (Memory.filter_avoids m a), fun c hc => ?_⟩
    rcases Memory.insert_mem hc with rfl | hc
    · exact ⟨ha, hv⟩
    · exact h.2 c (List.mem_filter.1 hc).1

/-! ### Devices -/

@[simp] theorem Device.take_selects (d : Device) (a b : Word) (v : Byte) : (d.take a v).selects b = d.selects b := by
  unfold Device.take; split <;> rfl

@[simp] theorem Device.take_kind (d : Device) (a : Word) (v : Byte) : (d.take a v).kind = d.kind := by
  unfold Device.take; split <;> rfl

@[simp] theorem Device.take_id (d : Device) (a : Word) (v : Byte) : (d.take a v).id = d.id := by
  unfold Device.take; split <;> rfl

/-- A write cycle keeps the canonical form of a device's memory. -/
theorem Device.take_wf {d : Device} (a : Word) (v : Byte) (h : Memory.wf d.cells = true) :
    Memory.wf (d.take a v).cells = true := by
  unfold Device.take; split
  · exact Memory.wf_write h a.isLt
  · exact h

theorem takeAll_wf {ds : List Device} (a : Word) (v : Byte) (h : ∀ d ∈ ds, Memory.wf d.cells = true) :
    ∀ d ∈ takeAll ds a v, Memory.wf d.cells = true := by
  intro d hd
  obtain ⟨d', hd', rfl⟩ := List.mem_map.1 hd
  exact Device.take_wf a v (h d' hd')

theorem Solid.takeAll {ds : List Device} (h : Solid ds) (a : Word) (v : Byte) : Solid (takeAll ds a v) where
  memory d hd := by obtain ⟨d', hd', rfl⟩ := List.mem_map.1 hd; simpa using h.memory d' hd'
  answered b := by
    obtain ⟨d, hd, hb⟩ := h.answered b
    exact ⟨d.take a v, List.mem_map.2 ⟨d, hd, rfl⟩, by simpa using hb⟩

/-- The byte a platform of plain memory answers at an address: the last device's that decodes it (spec R80). -/
def readAll (ds : List Device) (a : Word) : Byte := (answerAll ds a (Config.unwrittenByte, 0)).1

/-- Plain memory uses no free value. -/
theorem answerAll_draws {ds : List Device} (h : ∀ d ∈ ds, d.kind ≠ .external) (a : Word) (acc : Byte × Nat) :
    (answerAll ds a acc).2 = acc.2 := by
  induction ds generalizing acc with
  | nil => rfl
  | cons d ds ih =>
    have hd := h d (by simp)
    have := ih (fun d hd => h d (List.mem_cons_of_mem _ hd)) (d.answer a acc)
    simp only [answerAll, List.foldl_cons] at this ⊢
    rw [this]
    unfold Device.answer
    split
    · cases hk : d.kind <;> simp_all
    · rfl

/-- Where some device answers, the byte does not depend on what stood on DATA before. -/
theorem answerAll_answered {ds : List Device} (h : ∀ d ∈ ds, d.kind ≠ .external) {a : Word}
    (ha : ∃ d ∈ ds, d.selects a = true) (acc acc' : Byte × Nat) : (answerAll ds a acc).1 = (answerAll ds a acc').1 := by
  induction ds generalizing acc acc' with
  | nil => simp at ha
  | cons d ds ih =>
    have hds := fun e he => h e (List.mem_cons_of_mem d he)
    simp only [answerAll, List.foldl_cons]
    by_cases hex : ∃ e ∈ ds, e.selects a = true
    · exact ih hds hex _ _
    · have hsel : d.selects a = true := by
        obtain ⟨e, he, hea⟩ := ha
        rcases List.mem_cons.1 he with rfl | he
        · exact hea
        · exact absurd ⟨e, he, hea⟩ hex
      have hk := h d (by simp)
      have hnone : ∀ (es : List Device), (∀ e ∈ es, e.selects a ≠ true) → ∀ x : Byte × Nat,
          es.foldl (fun acc d => d.answer a acc) x = x := by
        intro es
        induction es with
        | nil => intros; rfl
        | cons e es ih' =>
          intro he x
          have := he e (by simp)
          rw [List.foldl_cons, show e.answer a x = x by simp [Device.answer, this]]
          exact ih' (fun e' h' => he e' (List.mem_cons_of_mem _ h')) x
      have hn : ∀ e ∈ ds, e.selects a ≠ true := fun e he hea => hex ⟨e, he, hea⟩
      rw [hnone ds hn, hnone ds hn]
      unfold Device.answer
      cases hk' : d.kind <;> simp_all

/-- What a read cycle gives on a platform of plain memory. -/
theorem answerAll_solid {ds : List Device} (h : Solid ds) (a : Word) (v : Byte) (n : Nat) :
    answerAll ds a (v, n) = (readAll ds a, n) :=
  Prod.ext (answerAll_answered h.memory (h.answered a) _ _) (answerAll_draws h.memory a _)

theorem peek_solid {s : State} (h : Solid s.devices) (a : Word) : s.peek a = readAll s.devices a :=
  answerAll_answered h.memory (h.answered a) _ _

theorem toNat_ne {a b : Word} (h : b ≠ a) : b.toNat ≠ a.toNat := fun e => h (BitVec.eq_of_toNat_eq e)

/-- After a write cycle every other address reads as before. -/
theorem readAll_takeAll_ne (ds : List Device) (a b : Word) (v : Byte) (h : b ≠ a) :
    readAll (takeAll ds a v) b = readAll ds b := by
  have key : ∀ acc, answerAll (takeAll ds a v) b acc = answerAll ds b acc := by
    induction ds with
    | nil => intro acc; rfl
    | cons d ds ih =>
      intro acc
      have hd : (d.take a v).answer b acc = d.answer b acc := by
        unfold Device.answer
        simp only [Device.take_selects, Device.take_kind]
        split
        · cases d.kind <;> simp only
          all_goals
            simp only [Device.take]
            split <;> simp [Memory.read_write_ne _ _ _ _ (toNat_ne h)]
        · rfl
      simp only [takeAll, answerAll, List.map_cons, List.foldl_cons, hd] at ih ⊢
      exact ih _
  simp only [readAll, key]

theorem lastAnswer_append (ds : List Device) (d : Device) (a : Word) :
    lastAnswer (ds ++ [d]) a = if d.selects a then some d else lastAnswer ds a := by
  by_cases h : d.selects a = true <;> simp [lastAnswer, List.filter_append, List.filter, h]

theorem answerAll_append (ds : List Device) (d : Device) (a : Word) (acc : Byte × Nat) :
    answerAll (ds ++ [d]) a acc = d.answer a (answerAll ds a acc) := by simp [answerAll]

/-- After a write cycle the address written reads as the byte written where RAM answers it last, and as before elsewhere. -/
theorem readAll_takeAll_self {ds : List Device} (h : ∀ d ∈ ds, d.kind ≠ .external) (a : Word) (v : Byte) :
    readAll (takeAll ds a v) a = if ((lastAnswer ds a).any fun d => d.kind == .ram) then v
      else readAll ds a := by
  unfold readAll
  induction ds using List.reverseRecOn with
  | nil => rfl
  | append_singleton ds d ih =>
    have hd := h d (by simp)
    have ih := ih fun e he => h e (by simp [he])
    rw [lastAnswer_append, takeAll, List.map_append, List.map_singleton, answerAll_append, answerAll_append]
    by_cases hsel : d.selects a = true
    · have hsel' : (d.take a v).selects a = true := by rwa [Device.take_selects]
      have hk' := Device.take_kind d a v
      cases hk : d.kind with
      | external => exact absurd hk hd
      | ram =>
        have hc : (d.take a v).cells = Memory.write d.cells a.toNat v := by simp [Device.take, hsel, hk]
        rw [hk] at hk'
        simp [Device.answer, hsel, hsel', hk, hc, Memory.read_write_self]
      | rom =>
        have hc : d.take a v = d := by simp [Device.take, hk]
        simp [Device.answer, hsel, hk, hc]
    · simp only [Device.answer, Device.take_selects, hsel, if_false, Bool.false_eq_true]
      exact ih

theorem lastAnswer_takeAll (ds : List Device) (a b : Word) (v : Byte) :
    lastAnswer (takeAll ds a v) b = (lastAnswer ds b).map fun d => d.take a v := by
  induction ds using List.reverseRecOn with
  | nil => rfl
  | append_singleton ds d ih =>
    rw [takeAll, List.map_append, List.map_singleton, lastAnswer_append, lastAnswer_append]
    by_cases hsel : d.selects b = true
    · simp [hsel]
    · simp only [Device.take_selects, hsel, if_false, Bool.false_eq_true]; exact ih

/-! ### Stores -/

/-- What one write cycle leaves. -/
theorem stored_of_takeAll {s t : State} (hs : Solid s.devices) {a : Word} {v : Byte} (h : t.devices = takeAll s.devices a v) :
    s.Stored t a v := by
  have ht : Solid t.devices := h ▸ hs.takeAll a v
  constructor
  · rw [peek_solid ht, h, readAll_takeAll_self hs.memory, peek_solid hs]; rfl
  · intro b hb
    rw [peek_solid ht, h, readAll_takeAll_ne _ _ _ _ hb, peek_solid hs]

theorem kept_of_devices {s t : State} (hs : Solid s.devices) (h : t.devices = s.devices) : s.Kept t := by
  intro b; rw [peek_solid (h ▸ hs), h, peek_solid hs]

theorem takes_takeAll {s t : State} {a : Word} {v : Byte} (h : t.devices = takeAll s.devices a v) (b : Word) :
    t.takes b = s.takes b := by
  simp only [State.takes, h, lastAnswer_takeAll]
  cases lastAnswer s.devices b <;> simp

end Sys2Proof.Machine
end

