-- ==== Sys2Proof/Laws/State.lean ====
section
/-!
SUPPORT. One lemma per field per update of the state: what each named update of Machine/Ops.lean leaves in each field.
-/

namespace Sys2Proof.Machine

@[simp] theorem State.setPc_regs_pc (st : State) (v : Word) : (st.setPc v).regs.pc = v := rfl
@[simp] theorem State.setPc_regs_a (st : State) (v : Word) : (st.setPc v).regs.a = st.regs.a := rfl
@[simp] theorem State.setPc_regs_x (st : State) (v : Word) : (st.setPc v).regs.x = st.regs.x := rfl
@[simp] theorem State.setPc_regs_y (st : State) (v : Word) : (st.setPc v).regs.y = st.regs.y := rfl
@[simp] theorem State.setPc_regs_s (st : State) (v : Word) : (st.setPc v).regs.s = st.regs.s := rfl
@[simp] theorem State.setPc_regs_p (st : State) (v : Word) : (st.setPc v).regs.p = st.regs.p := rfl
@[simp] theorem State.setPc_latch (st : State) (v : Word) : (st.setPc v).latch = st.latch := rfl
@[simp] theorem State.setPc_eng (st : State) (v : Word) : (st.setPc v).eng = st.eng := rfl
@[simp] theorem State.setPc_bp (st : State) (v : Word) : (st.setPc v).bp = st.bp := rfl
@[simp] theorem State.setPc_devices (st : State) (v : Word) : (st.setPc v).devices = st.devices := rfl
@[simp] theorem State.setPc_waiSemantics (st : State) (v : Word) : (st.setPc v).waiSemantics = st.waiSemantics := rfl
@[simp] theorem State.setPc_script (st : State) (v : Word) : (st.setPc v).script = st.script := rfl
@[simp] theorem State.setPc_draws (st : State) (v : Word) : (st.setPc v).draws = st.draws := rfl
@[simp] theorem State.setA_regs_pc (st : State) (v : Byte) : (st.setA v).regs.pc = st.regs.pc := rfl
@[simp] theorem State.setA_regs_a (st : State) (v : Byte) : (st.setA v).regs.a = v := rfl
@[simp] theorem State.setA_regs_x (st : State) (v : Byte) : (st.setA v).regs.x = st.regs.x := rfl
@[simp] theorem State.setA_regs_y (st : State) (v : Byte) : (st.setA v).regs.y = st.regs.y := rfl
@[simp] theorem State.setA_regs_s (st : State) (v : Byte) : (st.setA v).regs.s = st.regs.s := rfl
@[simp] theorem State.setA_regs_p (st : State) (v : Byte) : (st.setA v).regs.p = st.regs.p := rfl
@[simp] theorem State.setA_latch (st : State) (v : Byte) : (st.setA v).latch = st.latch := rfl
@[simp] theorem State.setA_eng (st : State) (v : Byte) : (st.setA v).eng = st.eng := rfl
@[simp] theorem State.setA_bp (st : State) (v : Byte) : (st.setA v).bp = st.bp := rfl
@[simp] theorem State.setA_devices (st : State) (v : Byte) : (st.setA v).devices = st.devices := rfl
@[simp] theorem State.setA_waiSemantics (st : State) (v : Byte) : (st.setA v).waiSemantics = st.waiSemantics := rfl
@[simp] theorem State.setA_script (st : State) (v : Byte) : (st.setA v).script = st.script := rfl
@[simp] theorem State.setA_draws (st : State) (v : Byte) : (st.setA v).draws = st.draws := rfl
@[simp] theorem State.setX_regs_pc (st : State) (v : Byte) : (st.setX v).regs.pc = st.regs.pc := rfl
@[simp] theorem State.setX_regs_a (st : State) (v : Byte) : (st.setX v).regs.a = st.regs.a := rfl
@[simp] theorem State.setX_regs_x (st : State) (v : Byte) : (st.setX v).regs.x = v := rfl
@[simp] theorem State.setX_regs_y (st : State) (v : Byte) : (st.setX v).regs.y = st.regs.y := rfl
@[simp] theorem State.setX_regs_s (st : State) (v : Byte) : (st.setX v).regs.s = st.regs.s := rfl
@[simp] theorem State.setX_regs_p (st : State) (v : Byte) : (st.setX v).regs.p = st.regs.p := rfl
@[simp] theorem State.setX_latch (st : State) (v : Byte) : (st.setX v).latch = st.latch := rfl
@[simp] theorem State.setX_eng (st : State) (v : Byte) : (st.setX v).eng = st.eng := rfl
@[simp] theorem State.setX_bp (st : State) (v : Byte) : (st.setX v).bp = st.bp := rfl
@[simp] theorem State.setX_devices (st : State) (v : Byte) : (st.setX v).devices = st.devices := rfl
@[simp] theorem State.setX_waiSemantics (st : State) (v : Byte) : (st.setX v).waiSemantics = st.waiSemantics := rfl
@[simp] theorem State.setX_script (st : State) (v : Byte) : (st.setX v).script = st.script := rfl
@[simp] theorem State.setX_draws (st : State) (v : Byte) : (st.setX v).draws = st.draws := rfl
@[simp] theorem State.setY_regs_pc (st : State) (v : Byte) : (st.setY v).regs.pc = st.regs.pc := rfl
@[simp] theorem State.setY_regs_a (st : State) (v : Byte) : (st.setY v).regs.a = st.regs.a := rfl
@[simp] theorem State.setY_regs_x (st : State) (v : Byte) : (st.setY v).regs.x = st.regs.x := rfl
@[simp] theorem State.setY_regs_y (st : State) (v : Byte) : (st.setY v).regs.y = v := rfl
@[simp] theorem State.setY_regs_s (st : State) (v : Byte) : (st.setY v).regs.s = st.regs.s := rfl
@[simp] theorem State.setY_regs_p (st : State) (v : Byte) : (st.setY v).regs.p = st.regs.p := rfl
@[simp] theorem State.setY_latch (st : State) (v : Byte) : (st.setY v).latch = st.latch := rfl
@[simp] theorem State.setY_eng (st : State) (v : Byte) : (st.setY v).eng = st.eng := rfl
@[simp] theorem State.setY_bp (st : State) (v : Byte) : (st.setY v).bp = st.bp := rfl
@[simp] theorem State.setY_devices (st : State) (v : Byte) : (st.setY v).devices = st.devices := rfl
@[simp] theorem State.setY_waiSemantics (st : State) (v : Byte) : (st.setY v).waiSemantics = st.waiSemantics := rfl
@[simp] theorem State.setY_script (st : State) (v : Byte) : (st.setY v).script = st.script := rfl
@[simp] theorem State.setY_draws (st : State) (v : Byte) : (st.setY v).draws = st.draws := rfl
@[simp] theorem State.setS_regs_pc (st : State) (v : Byte) : (st.setS v).regs.pc = st.regs.pc := rfl
@[simp] theorem State.setS_regs_a (st : State) (v : Byte) : (st.setS v).regs.a = st.regs.a := rfl
@[simp] theorem State.setS_regs_x (st : State) (v : Byte) : (st.setS v).regs.x = st.regs.x := rfl
@[simp] theorem State.setS_regs_y (st : State) (v : Byte) : (st.setS v).regs.y = st.regs.y := rfl
@[simp] theorem State.setS_regs_s (st : State) (v : Byte) : (st.setS v).regs.s = v := rfl
@[simp] theorem State.setS_regs_p (st : State) (v : Byte) : (st.setS v).regs.p = st.regs.p := rfl
@[simp] theorem State.setS_latch (st : State) (v : Byte) : (st.setS v).latch = st.latch := rfl
@[simp] theorem State.setS_eng (st : State) (v : Byte) : (st.setS v).eng = st.eng := rfl
@[simp] theorem State.setS_bp (st : State) (v : Byte) : (st.setS v).bp = st.bp := rfl
@[simp] theorem State.setS_devices (st : State) (v : Byte) : (st.setS v).devices = st.devices := rfl
@[simp] theorem State.setS_waiSemantics (st : State) (v : Byte) : (st.setS v).waiSemantics = st.waiSemantics := rfl
@[simp] theorem State.setS_script (st : State) (v : Byte) : (st.setS v).script = st.script := rfl
@[simp] theorem State.setS_draws (st : State) (v : Byte) : (st.setS v).draws = st.draws := rfl
@[simp] theorem State.setP_regs_pc (st : State) (v : Byte) : (st.setP v).regs.pc = st.regs.pc := rfl
@[simp] theorem State.setP_regs_a (st : State) (v : Byte) : (st.setP v).regs.a = st.regs.a := rfl
@[simp] theorem State.setP_regs_x (st : State) (v : Byte) : (st.setP v).regs.x = st.regs.x := rfl
@[simp] theorem State.setP_regs_y (st : State) (v : Byte) : (st.setP v).regs.y = st.regs.y := rfl
@[simp] theorem State.setP_regs_s (st : State) (v : Byte) : (st.setP v).regs.s = st.regs.s := rfl
@[simp] theorem State.setP_regs_p (st : State) (v : Byte) : (st.setP v).regs.p = v := rfl
@[simp] theorem State.setP_latch (st : State) (v : Byte) : (st.setP v).latch = st.latch := rfl
@[simp] theorem State.setP_eng (st : State) (v : Byte) : (st.setP v).eng = st.eng := rfl
@[simp] theorem State.setP_bp (st : State) (v : Byte) : (st.setP v).bp = st.bp := rfl
@[simp] theorem State.setP_devices (st : State) (v : Byte) : (st.setP v).devices = st.devices := rfl
@[simp] theorem State.setP_waiSemantics (st : State) (v : Byte) : (st.setP v).waiSemantics = st.waiSemantics := rfl
@[simp] theorem State.setP_script (st : State) (v : Byte) : (st.setP v).script = st.script := rfl
@[simp] theorem State.setP_draws (st : State) (v : Byte) : (st.setP v).draws = st.draws := rfl
@[simp] theorem State.setIr_regs (st : State) (v : Byte) : (st.setIr v).regs = st.regs := rfl
@[simp] theorem State.setIr_latch_ir (st : State) (v : Byte) : (st.setIr v).latch.ir = v := rfl
@[simp] theorem State.setIr_latch_d (st : State) (v : Byte) : (st.setIr v).latch.d = st.latch.d := rfl
@[simp] theorem State.setIr_latch_al (st : State) (v : Byte) : (st.setIr v).latch.al = st.latch.al := rfl
@[simp] theorem State.setIr_latch_ah (st : State) (v : Byte) : (st.setIr v).latch.ah = st.latch.ah := rfl
@[simp] theorem State.setIr_latch_eal (st : State) (v : Byte) : (st.setIr v).latch.eal = st.latch.eal := rfl
@[simp] theorem State.setIr_latch_eah (st : State) (v : Byte) : (st.setIr v).latch.eah = st.latch.eah := rfl
@[simp] theorem State.setIr_latch_zp (st : State) (v : Byte) : (st.setIr v).latch.zp = st.latch.zp := rfl
@[simp] theorem State.setIr_latch_npcl (st : State) (v : Byte) : (st.setIr v).latch.npcl = st.latch.npcl := rfl
@[simp] theorem State.setIr_latch_npch (st : State) (v : Byte) : (st.setIr v).latch.npch = st.latch.npch := rfl
@[simp] theorem State.setIr_latch_bd (st : State) (v : Byte) : (st.setIr v).latch.bd = st.latch.bd := rfl
@[simp] theorem State.setIr_eng (st : State) (v : Byte) : (st.setIr v).eng = st.eng := rfl
@[simp] theorem State.setIr_bp (st : State) (v : Byte) : (st.setIr v).bp = st.bp := rfl
@[simp] theorem State.setIr_devices (st : State) (v : Byte) : (st.setIr v).devices = st.devices := rfl
@[simp] theorem State.setIr_waiSemantics (st : State) (v : Byte) : (st.setIr v).waiSemantics = st.waiSemantics := rfl
@[simp] theorem State.setIr_script (st : State) (v : Byte) : (st.setIr v).script = st.script := rfl
@[simp] theorem State.setIr_draws (st : State) (v : Byte) : (st.setIr v).draws = st.draws := rfl
@[simp] theorem State.setD_regs (st : State) (v : Byte) : (st.setD v).regs = st.regs := rfl
@[simp] theorem State.setD_latch_ir (st : State) (v : Byte) : (st.setD v).latch.ir = st.latch.ir := rfl
@[simp] theorem State.setD_latch_d (st : State) (v : Byte) : (st.setD v).latch.d = v := rfl
@[simp] theorem State.setD_latch_al (st : State) (v : Byte) : (st.setD v).latch.al = st.latch.al := rfl
@[simp] theorem State.setD_latch_ah (st : State) (v : Byte) : (st.setD v).latch.ah = st.latch.ah := rfl
@[simp] theorem State.setD_latch_eal (st : State) (v : Byte) : (st.setD v).latch.eal = st.latch.eal := rfl
@[simp] theorem State.setD_latch_eah (st : State) (v : Byte) : (st.setD v).latch.eah = st.latch.eah := rfl
@[simp] theorem State.setD_latch_zp (st : State) (v : Byte) : (st.setD v).latch.zp = st.latch.zp := rfl
@[simp] theorem State.setD_latch_npcl (st : State) (v : Byte) : (st.setD v).latch.npcl = st.latch.npcl := rfl
@[simp] theorem State.setD_latch_npch (st : State) (v : Byte) : (st.setD v).latch.npch = st.latch.npch := rfl
@[simp] theorem State.setD_latch_bd (st : State) (v : Byte) : (st.setD v).latch.bd = st.latch.bd := rfl
@[simp] theorem State.setD_eng (st : State) (v : Byte) : (st.setD v).eng = st.eng := rfl
@[simp] theorem State.setD_bp (st : State) (v : Byte) : (st.setD v).bp = st.bp := rfl
@[simp] theorem State.setD_devices (st : State) (v : Byte) : (st.setD v).devices = st.devices := rfl
@[simp] theorem State.setD_waiSemantics (st : State) (v : Byte) : (st.setD v).waiSemantics = st.waiSemantics := rfl
@[simp] theorem State.setD_script (st : State) (v : Byte) : (st.setD v).script = st.script := rfl
@[simp] theorem State.setD_draws (st : State) (v : Byte) : (st.setD v).draws = st.draws := rfl
@[simp] theorem State.setAl_regs (st : State) (v : Byte) : (st.setAl v).regs = st.regs := rfl
@[simp] theorem State.setAl_latch_ir (st : State) (v : Byte) : (st.setAl v).latch.ir = st.latch.ir := rfl
@[simp] theorem State.setAl_latch_d (st : State) (v : Byte) : (st.setAl v).latch.d = st.latch.d := rfl
@[simp] theorem State.setAl_latch_al (st : State) (v : Byte) : (st.setAl v).latch.al = v := rfl
@[simp] theorem State.setAl_latch_ah (st : State) (v : Byte) : (st.setAl v).latch.ah = st.latch.ah := rfl
@[simp] theorem State.setAl_latch_eal (st : State) (v : Byte) : (st.setAl v).latch.eal = st.latch.eal := rfl
@[simp] theorem State.setAl_latch_eah (st : State) (v : Byte) : (st.setAl v).latch.eah = st.latch.eah := rfl
@[simp] theorem State.setAl_latch_zp (st : State) (v : Byte) : (st.setAl v).latch.zp = st.latch.zp := rfl
@[simp] theorem State.setAl_latch_npcl (st : State) (v : Byte) : (st.setAl v).latch.npcl = st.latch.npcl := rfl
@[simp] theorem State.setAl_latch_npch (st : State) (v : Byte) : (st.setAl v).latch.npch = st.latch.npch := rfl
@[simp] theorem State.setAl_latch_bd (st : State) (v : Byte) : (st.setAl v).latch.bd = st.latch.bd := rfl
@[simp] theorem State.setAl_eng (st : State) (v : Byte) : (st.setAl v).eng = st.eng := rfl
@[simp] theorem State.setAl_bp (st : State) (v : Byte) : (st.setAl v).bp = st.bp := rfl
@[simp] theorem State.setAl_devices (st : State) (v : Byte) : (st.setAl v).devices = st.devices := rfl
@[simp] theorem State.setAl_waiSemantics (st : State) (v : Byte) : (st.setAl v).waiSemantics = st.waiSemantics := rfl
@[simp] theorem State.setAl_script (st : State) (v : Byte) : (st.setAl v).script = st.script := rfl
@[simp] theorem State.setAl_draws (st : State) (v : Byte) : (st.setAl v).draws = st.draws := rfl
@[simp] theorem State.setAh_regs (st : State) (v : Byte) : (st.setAh v).regs = st.regs := rfl
@[simp] theorem State.setAh_latch_ir (st : State) (v : Byte) : (st.setAh v).latch.ir = st.latch.ir := rfl
@[simp] theorem State.setAh_latch_d (st : State) (v : Byte) : (st.setAh v).latch.d = st.latch.d := rfl
@[simp] theorem State.setAh_latch_al (st : State) (v : Byte) : (st.setAh v).latch.al = st.latch.al := rfl
@[simp] theorem State.setAh_latch_ah (st : State) (v : Byte) : (st.setAh v).latch.ah = v := rfl
@[simp] theorem State.setAh_latch_eal (st : State) (v : Byte) : (st.setAh v).latch.eal = st.latch.eal := rfl
@[simp] theorem State.setAh_latch_eah (st : State) (v : Byte) : (st.setAh v).latch.eah = st.latch.eah := rfl
@[simp] theorem State.setAh_latch_zp (st : State) (v : Byte) : (st.setAh v).latch.zp = st.latch.zp := rfl
@[simp] theorem State.setAh_latch_npcl (st : State) (v : Byte) : (st.setAh v).latch.npcl = st.latch.npcl := rfl
@[simp] theorem State.setAh_latch_npch (st : State) (v : Byte) : (st.setAh v).latch.npch = st.latch.npch := rfl
@[simp] theorem State.setAh_latch_bd (st : State) (v : Byte) : (st.setAh v).latch.bd = st.latch.bd := rfl
@[simp] theorem State.setAh_eng (st : State) (v : Byte) : (st.setAh v).eng = st.eng := rfl
@[simp] theorem State.setAh_bp (st : State) (v : Byte) : (st.setAh v).bp = st.bp := rfl
@[simp] theorem State.setAh_devices (st : State) (v : Byte) : (st.setAh v).devices = st.devices := rfl
@[simp] theorem State.setAh_waiSemantics (st : State) (v : Byte) : (st.setAh v).waiSemantics = st.waiSemantics := rfl
@[simp] theorem State.setAh_script (st : State) (v : Byte) : (st.setAh v).script = st.script := rfl
@[simp] theorem State.setAh_draws (st : State) (v : Byte) : (st.setAh v).draws = st.draws := rfl
@[simp] theorem State.setEal_regs (st : State) (v : Byte) : (st.setEal v).regs = st.regs := rfl
@[simp] theorem State.setEal_latch_ir (st : State) (v : Byte) : (st.setEal v).latch.ir = st.latch.ir := rfl
@[simp] theorem State.setEal_latch_d (st : State) (v : Byte) : (st.setEal v).latch.d = st.latch.d := rfl
@[simp] theorem State.setEal_latch_al (st : State) (v : Byte) : (st.setEal v).latch.al = st.latch.al := rfl
@[simp] theorem State.setEal_latch_ah (st : State) (v : Byte) : (st.setEal v).latch.ah = st.latch.ah := rfl
@[simp] theorem State.setEal_latch_eal (st : State) (v : Byte) : (st.setEal v).latch.eal = v := rfl
@[simp] theorem State.setEal_latch_eah (st : State) (v : Byte) : (st.setEal v).latch.eah = st.latch.eah := rfl
@[simp] theorem State.setEal_latch_zp (st : State) (v : Byte) : (st.setEal v).latch.zp = st.latch.zp := rfl
@[simp] theorem State.setEal_latch_npcl (st : State) (v : Byte) : (st.setEal v).latch.npcl = st.latch.npcl := rfl
@[simp] theorem State.setEal_latch_npch (st : State) (v : Byte) : (st.setEal v).latch.npch = st.latch.npch := rfl
@[simp] theorem State.setEal_latch_bd (st : State) (v : Byte) : (st.setEal v).latch.bd = st.latch.bd := rfl
@[simp] theorem State.setEal_eng (st : State) (v : Byte) : (st.setEal v).eng = st.eng := rfl
@[simp] theorem State.setEal_bp (st : State) (v : Byte) : (st.setEal v).bp = st.bp := rfl
@[simp] theorem State.setEal_devices (st : State) (v : Byte) : (st.setEal v).devices = st.devices := rfl
@[simp] theorem State.setEal_waiSemantics (st : State) (v : Byte) : (st.setEal v).waiSemantics = st.waiSemantics := rfl
@[simp] theorem State.setEal_script (st : State) (v : Byte) : (st.setEal v).script = st.script := rfl
@[simp] theorem State.setEal_draws (st : State) (v : Byte) : (st.setEal v).draws = st.draws := rfl
@[simp] theorem State.setEah_regs (st : State) (v : Byte) : (st.setEah v).regs = st.regs := rfl
@[simp] theorem State.setEah_latch_ir (st : State) (v : Byte) : (st.setEah v).latch.ir = st.latch.ir := rfl
@[simp] theorem State.setEah_latch_d (st : State) (v : Byte) : (st.setEah v).latch.d = st.latch.d := rfl
@[simp] theorem State.setEah_latch_al (st : State) (v : Byte) : (st.setEah v).latch.al = st.latch.al := rfl
@[simp] theorem State.setEah_latch_ah (st : State) (v : Byte) : (st.setEah v).latch.ah = st.latch.ah := rfl
@[simp] theorem State.setEah_latch_eal (st : State) (v : Byte) : (st.setEah v).latch.eal = st.latch.eal := rfl
@[simp] theorem State.setEah_latch_eah (st : State) (v : Byte) : (st.setEah v).latch.eah = v := rfl
@[simp] theorem State.setEah_latch_zp (st : State) (v : Byte) : (st.setEah v).latch.zp = st.latch.zp := rfl
@[simp] theorem State.setEah_latch_npcl (st : State) (v : Byte) : (st.setEah v).latch.npcl = st.latch.npcl := rfl
@[simp] theorem State.setEah_latch_npch (st : State) (v : Byte) : (st.setEah v).latch.npch = st.latch.npch := rfl
@[simp] theorem State.setEah_latch_bd (st : State) (v : Byte) : (st.setEah v).latch.bd = st.latch.bd := rfl
@[simp] theorem State.setEah_eng (st : State) (v : Byte) : (st.setEah v).eng = st.eng := rfl
@[simp] theorem State.setEah_bp (st : State) (v : Byte) : (st.setEah v).bp = st.bp := rfl
@[simp] theorem State.setEah_devices (st : State) (v : Byte) : (st.setEah v).devices = st.devices := rfl
@[simp] theorem State.setEah_waiSemantics (st : State) (v : Byte) : (st.setEah v).waiSemantics = st.waiSemantics := rfl
@[simp] theorem State.setEah_script (st : State) (v : Byte) : (st.setEah v).script = st.script := rfl
@[simp] theorem State.setEah_draws (st : State) (v : Byte) : (st.setEah v).draws = st.draws := rfl
@[simp] theorem State.setZp_regs (st : State) (v : Byte) : (st.setZp v).regs = st.regs := rfl
@[simp] theorem State.setZp_latch_ir (st : State) (v : Byte) : (st.setZp v).latch.ir = st.latch.ir := rfl
@[simp] theorem State.setZp_latch_d (st : State) (v : Byte) : (st.setZp v).latch.d = st.latch.d := rfl
@[simp] theorem State.setZp_latch_al (st : State) (v : Byte) : (st.setZp v).latch.al = st.latch.al := rfl
@[simp] theorem State.setZp_latch_ah (st : State) (v : Byte) : (st.setZp v).latch.ah = st.latch.ah := rfl
@[simp] theorem State.setZp_latch_eal (st : State) (v : Byte) : (st.setZp v).latch.eal = st.latch.eal := rfl
@[simp] theorem State.setZp_latch_eah (st : State) (v : Byte) : (st.setZp v).latch.eah = st.latch.eah := rfl
@[simp] theorem State.setZp_latch_zp (st : State) (v : Byte) : (st.setZp v).latch.zp = v := rfl
@[simp] theorem State.setZp_latch_npcl (st : State) (v : Byte) : (st.setZp v).latch.npcl = st.latch.npcl := rfl
@[simp] theorem State.setZp_latch_npch (st : State) (v : Byte) : (st.setZp v).latch.npch = st.latch.npch := rfl
@[simp] theorem State.setZp_latch_bd (st : State) (v : Byte) : (st.setZp v).latch.bd = st.latch.bd := rfl
@[simp] theorem State.setZp_eng (st : State) (v : Byte) : (st.setZp v).eng = st.eng := rfl
@[simp] theorem State.setZp_bp (st : State) (v : Byte) : (st.setZp v).bp = st.bp := rfl
@[simp] theorem State.setZp_devices (st : State) (v : Byte) : (st.setZp v).devices = st.devices := rfl
@[simp] theorem State.setZp_waiSemantics (st : State) (v : Byte) : (st.setZp v).waiSemantics = st.waiSemantics := rfl
@[simp] theorem State.setZp_script (st : State) (v : Byte) : (st.setZp v).script = st.script := rfl
@[simp] theorem State.setZp_draws (st : State) (v : Byte) : (st.setZp v).draws = st.draws := rfl
@[simp] theorem State.setNpcl_regs (st : State) (v : Byte) : (st.setNpcl v).regs = st.regs := rfl
@[simp] theorem State.setNpcl_latch_ir (st : State) (v : Byte) : (st.setNpcl v).latch.ir = st.latch.ir := rfl
@[simp] theorem State.setNpcl_latch_d (st : State) (v : Byte) : (st.setNpcl v).latch.d = st.latch.d := rfl
@[simp] theorem State.setNpcl_latch_al (st : State) (v : Byte) : (st.setNpcl v).latch.al = st.latch.al := rfl
@[simp] theorem State.setNpcl_latch_ah (st : State) (v : Byte) : (st.setNpcl v).latch.ah = st.latch.ah := rfl
@[simp] theorem State.setNpcl_latch_eal (st : State) (v : Byte) : (st.setNpcl v).latch.eal = st.latch.eal := rfl
@[simp] theorem State.setNpcl_latch_eah (st : State) (v : Byte) : (st.setNpcl v).latch.eah = st.latch.eah := rfl
@[simp] theorem State.setNpcl_latch_zp (st : State) (v : Byte) : (st.setNpcl v).latch.zp = st.latch.zp := rfl
@[simp] theorem State.setNpcl_latch_npcl (st : State) (v : Byte) : (st.setNpcl v).latch.npcl = v := rfl
@[simp] theorem State.setNpcl_latch_npch (st : State) (v : Byte) : (st.setNpcl v).latch.npch = st.latch.npch := rfl
@[simp] theorem State.setNpcl_latch_bd (st : State) (v : Byte) : (st.setNpcl v).latch.bd = st.latch.bd := rfl
@[simp] theorem State.setNpcl_eng (st : State) (v : Byte) : (st.setNpcl v).eng = st.eng := rfl
@[simp] theorem State.setNpcl_bp (st : State) (v : Byte) : (st.setNpcl v).bp = st.bp := rfl
@[simp] theorem State.setNpcl_devices (st : State) (v : Byte) : (st.setNpcl v).devices = st.devices := rfl
@[simp] theorem State.setNpcl_waiSemantics (st : State) (v : Byte) : (st.setNpcl v).waiSemantics = st.waiSemantics := rfl
@[simp] theorem State.setNpcl_script (st : State) (v : Byte) : (st.setNpcl v).script = st.script := rfl
@[simp] theorem State.setNpcl_draws (st : State) (v : Byte) : (st.setNpcl v).draws = st.draws := rfl
@[simp] theorem State.setNpch_regs (st : State) (v : Byte) : (st.setNpch v).regs = st.regs := rfl
@[simp] theorem State.setNpch_latch_ir (st : State) (v : Byte) : (st.setNpch v).latch.ir = st.latch.ir := rfl
@[simp] theorem State.setNpch_latch_d (st : State) (v : Byte) : (st.setNpch v).latch.d = st.latch.d := rfl
@[simp] theorem State.setNpch_latch_al (st : State) (v : Byte) : (st.setNpch v).latch.al = st.latch.al := rfl
@[simp] theorem State.setNpch_latch_ah (st : State) (v : Byte) : (st.setNpch v).latch.ah = st.latch.ah := rfl
@[simp] theorem State.setNpch_latch_eal (st : State) (v : Byte) : (st.setNpch v).latch.eal = st.latch.eal := rfl
@[simp] theorem State.setNpch_latch_eah (st : State) (v : Byte) : (st.setNpch v).latch.eah = st.latch.eah := rfl
@[simp] theorem State.setNpch_latch_zp (st : State) (v : Byte) : (st.setNpch v).latch.zp = st.latch.zp := rfl
@[simp] theorem State.setNpch_latch_npcl (st : State) (v : Byte) : (st.setNpch v).latch.npcl = st.latch.npcl := rfl
@[simp] theorem State.setNpch_latch_npch (st : State) (v : Byte) : (st.setNpch v).latch.npch = v := rfl
@[simp] theorem State.setNpch_latch_bd (st : State) (v : Byte) : (st.setNpch v).latch.bd = st.latch.bd := rfl
@[simp] theorem State.setNpch_eng (st : State) (v : Byte) : (st.setNpch v).eng = st.eng := rfl
@[simp] theorem State.setNpch_bp (st : State) (v : Byte) : (st.setNpch v).bp = st.bp := rfl
@[simp] theorem State.setNpch_devices (st : State) (v : Byte) : (st.setNpch v).devices = st.devices := rfl
@[simp] theorem State.setNpch_waiSemantics (st : State) (v : Byte) : (st.setNpch v).waiSemantics = st.waiSemantics := rfl
@[simp] theorem State.setNpch_script (st : State) (v : Byte) : (st.setNpch v).script = st.script := rfl
@[simp] theorem State.setNpch_draws (st : State) (v : Byte) : (st.setNpch v).draws = st.draws := rfl
@[simp] theorem State.setBd_regs (st : State) (v : Bool) : (st.setBd v).regs = st.regs := rfl
@[simp] theorem State.setBd_latch_ir (st : State) (v : Bool) : (st.setBd v).latch.ir = st.latch.ir := rfl
@[simp] theorem State.setBd_latch_d (st : State) (v : Bool) : (st.setBd v).latch.d = st.latch.d := rfl
@[simp] theorem State.setBd_latch_al (st : State) (v : Bool) : (st.setBd v).latch.al = st.latch.al := rfl
@[simp] theorem State.setBd_latch_ah (st : State) (v : Bool) : (st.setBd v).latch.ah = st.latch.ah := rfl
@[simp] theorem State.setBd_latch_eal (st : State) (v : Bool) : (st.setBd v).latch.eal = st.latch.eal := rfl
@[simp] theorem State.setBd_latch_eah (st : State) (v : Bool) : (st.setBd v).latch.eah = st.latch.eah := rfl
@[simp] theorem State.setBd_latch_zp (st : State) (v : Bool) : (st.setBd v).latch.zp = st.latch.zp := rfl
@[simp] theorem State.setBd_latch_npcl (st : State) (v : Bool) : (st.setBd v).latch.npcl = st.latch.npcl := rfl
@[simp] theorem State.setBd_latch_npch (st : State) (v : Bool) : (st.setBd v).latch.npch = st.latch.npch := rfl
@[simp] theorem State.setBd_latch_bd (st : State) (v : Bool) : (st.setBd v).latch.bd = v := rfl
@[simp] theorem State.setBd_eng (st : State) (v : Bool) : (st.setBd v).eng = st.eng := rfl
@[simp] theorem State.setBd_bp (st : State) (v : Bool) : (st.setBd v).bp = st.bp := rfl
@[simp] theorem State.setBd_devices (st : State) (v : Bool) : (st.setBd v).devices = st.devices := rfl
@[simp] theorem State.setBd_waiSemantics (st : State) (v : Bool) : (st.setBd v).waiSemantics = st.waiSemantics := rfl
@[simp] theorem State.setBd_script (st : State) (v : Bool) : (st.setBd v).script = st.script := rfl
@[simp] theorem State.setBd_draws (st : State) (v : Bool) : (st.setBd v).draws = st.draws := rfl
@[simp] theorem State.setList_regs (st : State) (v : ListName) : (st.setList v).regs = st.regs := rfl
@[simp] theorem State.setList_latch (st : State) (v : ListName) : (st.setList v).latch = st.latch := rfl
@[simp] theorem State.setList_eng_list (st : State) (v : ListName) : (st.setList v).eng.list = v := rfl
@[simp] theorem State.setList_eng_idx (st : State) (v : ListName) : (st.setList v).eng.idx = st.eng.idx := rfl
@[simp] theorem State.setList_eng_instr (st : State) (v : ListName) : (st.setList v).eng.instr = st.eng.instr := rfl
@[simp] theorem State.setList_eng_prevTag (st : State) (v : ListName) : (st.setList v).eng.prevTag = st.eng.prevTag := rfl
@[simp] theorem State.setList_eng_prevRw (st : State) (v : ListName) : (st.setList v).eng.prevRw = st.eng.prevRw := rfl
@[simp] theorem State.setList_eng_mode (st : State) (v : ListName) : (st.setList v).eng.mode = st.eng.mode := rfl
@[simp] theorem State.setList_eng_extra (st : State) (v : ListName) : (st.setList v).eng.extra = st.eng.extra := rfl
@[simp] theorem State.setList_eng_pending (st : State) (v : ListName) : (st.setList v).eng.pending = st.eng.pending := rfl
@[simp] theorem State.setList_eng_stopped (st : State) (v : ListName) : (st.setList v).eng.stopped = st.eng.stopped := rfl
@[simp] theorem State.setList_eng_cycles (st : State) (v : ListName) : (st.setList v).eng.cycles = st.eng.cycles := rfl
@[simp] theorem State.setList_bp (st : State) (v : ListName) : (st.setList v).bp = st.bp := rfl
@[simp] theorem State.setList_devices (st : State) (v : ListName) : (st.setList v).devices = st.devices := rfl
@[simp] theorem State.setList_waiSemantics (st : State) (v : ListName) : (st.setList v).waiSemantics = st.waiSemantics := rfl
@[simp] theorem State.setList_script (st : State) (v : ListName) : (st.setList v).script = st.script := rfl
@[simp] theorem State.setList_draws (st : State) (v : ListName) : (st.setList v).draws = st.draws := rfl
@[simp] theorem State.setIdx_regs (st : State) (v : Nat) : (st.setIdx v).regs = st.regs := rfl
@[simp] theorem State.setIdx_latch (st : State) (v : Nat) : (st.setIdx v).latch = st.latch := rfl
@[simp] theorem State.setIdx_eng_list (st : State) (v : Nat) : (st.setIdx v).eng.list = st.eng.list := rfl
@[simp] theorem State.setIdx_eng_idx (st : State) (v : Nat) : (st.setIdx v).eng.idx = v := rfl
@[simp] theorem State.setIdx_eng_instr (st : State) (v : Nat) : (st.setIdx v).eng.instr = st.eng.instr := rfl
@[simp] theorem State.setIdx_eng_prevTag (st : State) (v : Nat) : (st.setIdx v).eng.prevTag = st.eng.prevTag := rfl
@[simp] theorem State.setIdx_eng_prevRw (st : State) (v : Nat) : (st.setIdx v).eng.prevRw = st.eng.prevRw := rfl
@[simp] theorem State.setIdx_eng_mode (st : State) (v : Nat) : (st.setIdx v).eng.mode = st.eng.mode := rfl
@[simp] theorem State.setIdx_eng_extra (st : State) (v : Nat) : (st.setIdx v).eng.extra = st.eng.extra := rfl
@[simp] theorem State.setIdx_eng_pending (st : State) (v : Nat) : (st.setIdx v).eng.pending = st.eng.pending := rfl
@[simp] theorem State.setIdx_eng_stopped (st : State) (v : Nat) : (st.setIdx v).eng.stopped = st.eng.stopped := rfl
@[simp] theorem State.setIdx_eng_cycles (st : State) (v : Nat) : (st.setIdx v).eng.cycles = st.eng.cycles := rfl
@[simp] theorem State.setIdx_bp (st : State) (v : Nat) : (st.setIdx v).bp = st.bp := rfl
@[simp] theorem State.setIdx_devices (st : State) (v : Nat) : (st.setIdx v).devices = st.devices := rfl
@[simp] theorem State.setIdx_waiSemantics (st : State) (v : Nat) : (st.setIdx v).waiSemantics = st.waiSemantics := rfl
@[simp] theorem State.setIdx_script (st : State) (v : Nat) : (st.setIdx v).script = st.script := rfl
@[simp] theorem State.setIdx_draws (st : State) (v : Nat) : (st.setIdx v).draws = st.draws := rfl
@[simp] theorem State.setInstr_regs (st : State) (v : Running) : (st.setInstr v).regs = st.regs := rfl
@[simp] theorem State.setInstr_latch (st : State) (v : Running) : (st.setInstr v).latch = st.latch := rfl
@[simp] theorem State.setInstr_eng_list (st : State) (v : Running) : (st.setInstr v).eng.list = st.eng.list := rfl
@[simp] theorem State.setInstr_eng_idx (st : State) (v : Running) : (st.setInstr v).eng.idx = st.eng.idx := rfl
@[simp] theorem State.setInstr_eng_instr (st : State) (v : Running) : (st.setInstr v).eng.instr = v := rfl
@[simp] theorem State.setInstr_eng_prevTag (st : State) (v : Running) : (st.setInstr v).eng.prevTag = st.eng.prevTag := rfl
@[simp] theorem State.setInstr_eng_prevRw (st : State) (v : Running) : (st.setInstr v).eng.prevRw = st.eng.prevRw := rfl
@[simp] theorem State.setInstr_eng_mode (st : State) (v : Running) : (st.setInstr v).eng.mode = st.eng.mode := rfl
@[simp] theorem State.setInstr_eng_extra (st : State) (v : Running) : (st.setInstr v).eng.extra = st.eng.extra := rfl
@[simp] theorem State.setInstr_eng_pending (st : State) (v : Running) : (st.setInstr v).eng.pending = st.eng.pending := rfl
@[simp] theorem State.setInstr_eng_stopped (st : State) (v : Running) : (st.setInstr v).eng.stopped = st.eng.stopped := rfl
@[simp] theorem State.setInstr_eng_cycles (st : State) (v : Running) : (st.setInstr v).eng.cycles = st.eng.cycles := rfl
@[simp] theorem State.setInstr_bp (st : State) (v : Running) : (st.setInstr v).bp = st.bp := rfl
@[simp] theorem State.setInstr_devices (st : State) (v : Running) : (st.setInstr v).devices = st.devices := rfl
@[simp] theorem State.setInstr_waiSemantics (st : State) (v : Running) : (st.setInstr v).waiSemantics = st.waiSemantics := rfl
@[simp] theorem State.setInstr_script (st : State) (v : Running) : (st.setInstr v).script = st.script := rfl
@[simp] theorem State.setInstr_draws (st : State) (v : Running) : (st.setInstr v).draws = st.draws := rfl
@[simp] theorem State.setMode_regs (st : State) (v : Mode) : (st.setMode v).regs = st.regs := rfl
@[simp] theorem State.setMode_latch (st : State) (v : Mode) : (st.setMode v).latch = st.latch := rfl
@[simp] theorem State.setMode_eng_list (st : State) (v : Mode) : (st.setMode v).eng.list = st.eng.list := rfl
@[simp] theorem State.setMode_eng_idx (st : State) (v : Mode) : (st.setMode v).eng.idx = st.eng.idx := rfl
@[simp] theorem State.setMode_eng_instr (st : State) (v : Mode) : (st.setMode v).eng.instr = st.eng.instr := rfl
@[simp] theorem State.setMode_eng_prevTag (st : State) (v : Mode) : (st.setMode v).eng.prevTag = st.eng.prevTag := rfl
@[simp] theorem State.setMode_eng_prevRw (st : State) (v : Mode) : (st.setMode v).eng.prevRw = st.eng.prevRw := rfl
@[simp] theorem State.setMode_eng_mode (st : State) (v : Mode) : (st.setMode v).eng.mode = v := rfl
@[simp] theorem State.setMode_eng_extra (st : State) (v : Mode) : (st.setMode v).eng.extra = st.eng.extra := rfl
@[simp] theorem State.setMode_eng_pending (st : State) (v : Mode) : (st.setMode v).eng.pending = st.eng.pending := rfl
@[simp] theorem State.setMode_eng_stopped (st : State) (v : Mode) : (st.setMode v).eng.stopped = st.eng.stopped := rfl
@[simp] theorem State.setMode_eng_cycles (st : State) (v : Mode) : (st.setMode v).eng.cycles = st.eng.cycles := rfl
@[simp] theorem State.setMode_bp (st : State) (v : Mode) : (st.setMode v).bp = st.bp := rfl
@[simp] theorem State.setMode_devices (st : State) (v : Mode) : (st.setMode v).devices = st.devices := rfl
@[simp] theorem State.setMode_waiSemantics (st : State) (v : Mode) : (st.setMode v).waiSemantics = st.waiSemantics := rfl
@[simp] theorem State.setMode_script (st : State) (v : Mode) : (st.setMode v).script = st.script := rfl
@[simp] theorem State.setMode_draws (st : State) (v : Mode) : (st.setMode v).draws = st.draws := rfl
@[simp] theorem State.setExtra_regs (st : State) (v : Nat) : (st.setExtra v).regs = st.regs := rfl
@[simp] theorem State.setExtra_latch (st : State) (v : Nat) : (st.setExtra v).latch = st.latch := rfl
@[simp] theorem State.setExtra_eng_list (st : State) (v : Nat) : (st.setExtra v).eng.list = st.eng.list := rfl
@[simp] theorem State.setExtra_eng_idx (st : State) (v : Nat) : (st.setExtra v).eng.idx = st.eng.idx := rfl
@[simp] theorem State.setExtra_eng_instr (st : State) (v : Nat) : (st.setExtra v).eng.instr = st.eng.instr := rfl
@[simp] theorem State.setExtra_eng_prevTag (st : State) (v : Nat) : (st.setExtra v).eng.prevTag = st.eng.prevTag := rfl
@[simp] theorem State.setExtra_eng_prevRw (st : State) (v : Nat) : (st.setExtra v).eng.prevRw = st.eng.prevRw := rfl
@[simp] theorem State.setExtra_eng_mode (st : State) (v : Nat) : (st.setExtra v).eng.mode = st.eng.mode := rfl
@[simp] theorem State.setExtra_eng_extra (st : State) (v : Nat) : (st.setExtra v).eng.extra = v := rfl
@[simp] theorem State.setExtra_eng_pending (st : State) (v : Nat) : (st.setExtra v).eng.pending = st.eng.pending := rfl
@[simp] theorem State.setExtra_eng_stopped (st : State) (v : Nat) : (st.setExtra v).eng.stopped = st.eng.stopped := rfl
@[simp] theorem State.setExtra_eng_cycles (st : State) (v : Nat) : (st.setExtra v).eng.cycles = st.eng.cycles := rfl
@[simp] theorem State.setExtra_bp (st : State) (v : Nat) : (st.setExtra v).bp = st.bp := rfl
@[simp] theorem State.setExtra_devices (st : State) (v : Nat) : (st.setExtra v).devices = st.devices := rfl
@[simp] theorem State.setExtra_waiSemantics (st : State) (v : Nat) : (st.setExtra v).waiSemantics = st.waiSemantics := rfl
@[simp] theorem State.setExtra_script (st : State) (v : Nat) : (st.setExtra v).script = st.script := rfl
@[simp] theorem State.setExtra_draws (st : State) (v : Nat) : (st.setExtra v).draws = st.draws := rfl
@[simp] theorem State.setPending_regs (st : State) (v : Option Running) : (st.setPending v).regs = st.regs := rfl
@[simp] theorem State.setPending_latch (st : State) (v : Option Running) : (st.setPending v).latch = st.latch := rfl
@[simp] theorem State.setPending_eng_list (st : State) (v : Option Running) : (st.setPending v).eng.list = st.eng.list := rfl
@[simp] theorem State.setPending_eng_idx (st : State) (v : Option Running) : (st.setPending v).eng.idx = st.eng.idx := rfl
@[simp] theorem State.setPending_eng_instr (st : State) (v : Option Running) : (st.setPending v).eng.instr = st.eng.instr := rfl
@[simp] theorem State.setPending_eng_prevTag (st : State) (v : Option Running) : (st.setPending v).eng.prevTag = st.eng.prevTag := rfl
@[simp] theorem State.setPending_eng_prevRw (st : State) (v : Option Running) : (st.setPending v).eng.prevRw = st.eng.prevRw := rfl
@[simp] theorem State.setPending_eng_mode (st : State) (v : Option Running) : (st.setPending v).eng.mode = st.eng.mode := rfl
@[simp] theorem State.setPending_eng_extra (st : State) (v : Option Running) : (st.setPending v).eng.extra = st.eng.extra := rfl
@[simp] theorem State.setPending_eng_pending (st : State) (v : Option Running) : (st.setPending v).eng.pending = v := rfl
@[simp] theorem State.setPending_eng_stopped (st : State) (v : Option Running) : (st.setPending v).eng.stopped = st.eng.stopped := rfl
@[simp] theorem State.setPending_eng_cycles (st : State) (v : Option Running) : (st.setPending v).eng.cycles = st.eng.cycles := rfl
@[simp] theorem State.setPending_bp (st : State) (v : Option Running) : (st.setPending v).bp = st.bp := rfl
@[simp] theorem State.setPending_devices (st : State) (v : Option Running) : (st.setPending v).devices = st.devices := rfl
@[simp] theorem State.setPending_waiSemantics (st : State) (v : Option Running) : (st.setPending v).waiSemantics = st.waiSemantics := rfl
@[simp] theorem State.setPending_script (st : State) (v : Option Running) : (st.setPending v).script = st.script := rfl
@[simp] theorem State.setPending_draws (st : State) (v : Option Running) : (st.setPending v).draws = st.draws := rfl
@[simp] theorem State.setStopped_regs (st : State) (v : Bool) : (st.setStopped v).regs = st.regs := rfl
@[simp] theorem State.setStopped_latch (st : State) (v : Bool) : (st.setStopped v).latch = st.latch := rfl
@[simp] theorem State.setStopped_eng_list (st : State) (v : Bool) : (st.setStopped v).eng.list = st.eng.list := rfl
@[simp] theorem State.setStopped_eng_idx (st : State) (v : Bool) : (st.setStopped v).eng.idx = st.eng.idx := rfl
@[simp] theorem State.setStopped_eng_instr (st : State) (v : Bool) : (st.setStopped v).eng.instr = st.eng.instr := rfl
@[simp] theorem State.setStopped_eng_prevTag (st : State) (v : Bool) : (st.setStopped v).eng.prevTag = st.eng.prevTag := rfl
@[simp] theorem State.setStopped_eng_prevRw (st : State) (v : Bool) : (st.setStopped v).eng.prevRw = st.eng.prevRw := rfl
@[simp] theorem State.setStopped_eng_mode (st : State) (v : Bool) : (st.setStopped v).eng.mode = st.eng.mode := rfl
@[simp] theorem State.setStopped_eng_extra (st : State) (v : Bool) : (st.setStopped v).eng.extra = st.eng.extra := rfl
@[simp] theorem State.setStopped_eng_pending (st : State) (v : Bool) : (st.setStopped v).eng.pending = st.eng.pending := rfl
@[simp] theorem State.setStopped_eng_stopped (st : State) (v : Bool) : (st.setStopped v).eng.stopped = v := rfl
@[simp] theorem State.setStopped_eng_cycles (st : State) (v : Bool) : (st.setStopped v).eng.cycles = st.eng.cycles := rfl
@[simp] theorem State.setStopped_bp (st : State) (v : Bool) : (st.setStopped v).bp = st.bp := rfl
@[simp] theorem State.setStopped_devices (st : State) (v : Bool) : (st.setStopped v).devices = st.devices := rfl
@[simp] theorem State.setStopped_waiSemantics (st : State) (v : Bool) : (st.setStopped v).waiSemantics = st.waiSemantics := rfl
@[simp] theorem State.setStopped_script (st : State) (v : Bool) : (st.setStopped v).script = st.script := rfl
@[simp] theorem State.setStopped_draws (st : State) (v : Bool) : (st.setStopped v).draws = st.draws := rfl
@[simp] theorem State.setCycles_regs (st : State) (v : Nat) : (st.setCycles v).regs = st.regs := rfl
@[simp] theorem State.setCycles_latch (st : State) (v : Nat) : (st.setCycles v).latch = st.latch := rfl
@[simp] theorem State.setCycles_eng_list (st : State) (v : Nat) : (st.setCycles v).eng.list = st.eng.list := rfl
@[simp] theorem State.setCycles_eng_idx (st : State) (v : Nat) : (st.setCycles v).eng.idx = st.eng.idx := rfl
@[simp] theorem State.setCycles_eng_instr (st : State) (v : Nat) : (st.setCycles v).eng.instr = st.eng.instr := rfl
@[simp] theorem State.setCycles_eng_prevTag (st : State) (v : Nat) : (st.setCycles v).eng.prevTag = st.eng.prevTag := rfl
@[simp] theorem State.setCycles_eng_prevRw (st : State) (v : Nat) : (st.setCycles v).eng.prevRw = st.eng.prevRw := rfl
@[simp] theorem State.setCycles_eng_mode (st : State) (v : Nat) : (st.setCycles v).eng.mode = st.eng.mode := rfl
@[simp] theorem State.setCycles_eng_extra (st : State) (v : Nat) : (st.setCycles v).eng.extra = st.eng.extra := rfl
@[simp] theorem State.setCycles_eng_pending (st : State) (v : Nat) : (st.setCycles v).eng.pending = st.eng.pending := rfl
@[simp] theorem State.setCycles_eng_stopped (st : State) (v : Nat) : (st.setCycles v).eng.stopped = st.eng.stopped := rfl
@[simp] theorem State.setCycles_eng_cycles (st : State) (v : Nat) : (st.setCycles v).eng.cycles = v := rfl
@[simp] theorem State.setCycles_bp (st : State) (v : Nat) : (st.setCycles v).bp = st.bp := rfl
@[simp] theorem State.setCycles_devices (st : State) (v : Nat) : (st.setCycles v).devices = st.devices := rfl
@[simp] theorem State.setCycles_waiSemantics (st : State) (v : Nat) : (st.setCycles v).waiSemantics = st.waiSemantics := rfl
@[simp] theorem State.setCycles_script (st : State) (v : Nat) : (st.setCycles v).script = st.script := rfl
@[simp] theorem State.setCycles_draws (st : State) (v : Nat) : (st.setCycles v).draws = st.draws := rfl
@[simp] theorem State.setPrev_regs (st : State) (t : DataTag) (r : Direction) : (st.setPrev t r).regs = st.regs := rfl
@[simp] theorem State.setPrev_latch (st : State) (t : DataTag) (r : Direction) : (st.setPrev t r).latch = st.latch := rfl
@[simp] theorem State.setPrev_eng_list (st : State) (t : DataTag) (r : Direction) : (st.setPrev t r).eng.list = st.eng.list := rfl
@[simp] theorem State.setPrev_eng_idx (st : State) (t : DataTag) (r : Direction) : (st.setPrev t r).eng.idx = st.eng.idx := rfl
@[simp] theorem State.setPrev_eng_instr (st : State) (t : DataTag) (r : Direction) : (st.setPrev t r).eng.instr = st.eng.instr := rfl
@[simp] theorem State.setPrev_eng_prevTag (st : State) (t : DataTag) (r : Direction) : (st.setPrev t r).eng.prevTag = t := rfl
@[simp] theorem State.setPrev_eng_prevRw (st : State) (t : DataTag) (r : Direction) : (st.setPrev t r).eng.prevRw = r := rfl
@[simp] theorem State.setPrev_eng_mode (st : State) (t : DataTag) (r : Direction) : (st.setPrev t r).eng.mode = st.eng.mode := rfl
@[simp] theorem State.setPrev_eng_extra (st : State) (t : DataTag) (r : Direction) : (st.setPrev t r).eng.extra = st.eng.extra := rfl
@[simp] theorem State.setPrev_eng_pending (st : State) (t : DataTag) (r : Direction) : (st.setPrev t r).eng.pending = st.eng.pending := rfl
@[simp] theorem State.setPrev_eng_stopped (st : State) (t : DataTag) (r : Direction) : (st.setPrev t r).eng.stopped = st.eng.stopped := rfl
@[simp] theorem State.setPrev_eng_cycles (st : State) (t : DataTag) (r : Direction) : (st.setPrev t r).eng.cycles = st.eng.cycles := rfl
@[simp] theorem State.setPrev_bp (st : State) (t : DataTag) (r : Direction) : (st.setPrev t r).bp = st.bp := rfl
@[simp] theorem State.setPrev_devices (st : State) (t : DataTag) (r : Direction) : (st.setPrev t r).devices = st.devices := rfl
@[simp] theorem State.setPrev_waiSemantics (st : State) (t : DataTag) (r : Direction) : (st.setPrev t r).waiSemantics = st.waiSemantics := rfl
@[simp] theorem State.setPrev_script (st : State) (t : DataTag) (r : Direction) : (st.setPrev t r).script = st.script := rfl
@[simp] theorem State.setPrev_draws (st : State) (t : DataTag) (r : Direction) : (st.setPrev t r).draws = st.draws := rfl
@[simp] theorem State.setAddr_regs (st : State) (v : Word) : (st.setAddr v).regs = st.regs := rfl
@[simp] theorem State.setAddr_latch (st : State) (v : Word) : (st.setAddr v).latch = st.latch := rfl
@[simp] theorem State.setAddr_eng (st : State) (v : Word) : (st.setAddr v).eng = st.eng := rfl
@[simp] theorem State.setAddr_bp_addr (st : State) (v : Word) : (st.setAddr v).bp.addr = { st.bp.addr with value := v } := rfl
@[simp] theorem State.setAddr_bp_data (st : State) (v : Word) : (st.setAddr v).bp.data = st.bp.data := rfl
@[simp] theorem State.setAddr_bp_phi2 (st : State) (v : Word) : (st.setAddr v).bp.phi2 = st.bp.phi2 := rfl
@[simp] theorem State.setAddr_bp_rwb (st : State) (v : Word) : (st.setAddr v).bp.rwb = st.bp.rwb := rfl
@[simp] theorem State.setAddr_bp_sync (st : State) (v : Word) : (st.setAddr v).bp.sync = st.bp.sync := rfl
@[simp] theorem State.setAddr_bp_vpb (st : State) (v : Word) : (st.setAddr v).bp.vpb = st.bp.vpb := rfl
@[simp] theorem State.setAddr_bp_mlb (st : State) (v : Word) : (st.setAddr v).bp.mlb = st.bp.mlb := rfl
@[simp] theorem State.setAddr_bp_rdy (st : State) (v : Word) : (st.setAddr v).bp.rdy = st.bp.rdy := rfl
@[simp] theorem State.setAddr_bp_resb (st : State) (v : Word) : (st.setAddr v).bp.resb = st.bp.resb := rfl
@[simp] theorem State.setAddr_bp_irqb (st : State) (v : Word) : (st.setAddr v).bp.irqb = st.bp.irqb := rfl
@[simp] theorem State.setAddr_bp_be (st : State) (v : Word) : (st.setAddr v).bp.be = st.bp.be := rfl
@[simp] theorem State.setAddr_devices (st : State) (v : Word) : (st.setAddr v).devices = st.devices := rfl
@[simp] theorem State.setAddr_waiSemantics (st : State) (v : Word) : (st.setAddr v).waiSemantics = st.waiSemantics := rfl
@[simp] theorem State.setAddr_script (st : State) (v : Word) : (st.setAddr v).script = st.script := rfl
@[simp] theorem State.setAddr_draws (st : State) (v : Word) : (st.setAddr v).draws = st.draws := rfl
@[simp] theorem State.setData_regs (st : State) (v : Byte) : (st.setData v).regs = st.regs := rfl
@[simp] theorem State.setData_latch (st : State) (v : Byte) : (st.setData v).latch = st.latch := rfl
@[simp] theorem State.setData_eng (st : State) (v : Byte) : (st.setData v).eng = st.eng := rfl
@[simp] theorem State.setData_bp_addr (st : State) (v : Byte) : (st.setData v).bp.addr = st.bp.addr := rfl
@[simp] theorem State.setData_bp_data (st : State) (v : Byte) : (st.setData v).bp.data = { st.bp.data with value := v } := rfl
@[simp] theorem State.setData_bp_phi2 (st : State) (v : Byte) : (st.setData v).bp.phi2 = st.bp.phi2 := rfl
@[simp] theorem State.setData_bp_rwb (st : State) (v : Byte) : (st.setData v).bp.rwb = st.bp.rwb := rfl
@[simp] theorem State.setData_bp_sync (st : State) (v : Byte) : (st.setData v).bp.sync = st.bp.sync := rfl
@[simp] theorem State.setData_bp_vpb (st : State) (v : Byte) : (st.setData v).bp.vpb = st.bp.vpb := rfl
@[simp] theorem State.setData_bp_mlb (st : State) (v : Byte) : (st.setData v).bp.mlb = st.bp.mlb := rfl
@[simp] theorem State.setData_bp_rdy (st : State) (v : Byte) : (st.setData v).bp.rdy = st.bp.rdy := rfl
@[simp] theorem State.setData_bp_resb (st : State) (v : Byte) : (st.setData v).bp.resb = st.bp.resb := rfl
@[simp] theorem State.setData_bp_irqb (st : State) (v : Byte) : (st.setData v).bp.irqb = st.bp.irqb := rfl
@[simp] theorem State.setData_bp_be (st : State) (v : Byte) : (st.setData v).bp.be = st.bp.be := rfl
@[simp] theorem State.setData_devices (st : State) (v : Byte) : (st.setData v).devices = st.devices := rfl
@[simp] theorem State.setData_waiSemantics (st : State) (v : Byte) : (st.setData v).waiSemantics = st.waiSemantics := rfl
@[simp] theorem State.setData_script (st : State) (v : Byte) : (st.setData v).script = st.script := rfl
@[simp] theorem State.setData_draws (st : State) (v : Byte) : (st.setData v).draws = st.draws := rfl
@[simp] theorem State.setPhi2_regs (st : State) (b : Bool) : (st.setPhi2 b).regs = st.regs := rfl
@[simp] theorem State.setPhi2_latch (st : State) (b : Bool) : (st.setPhi2 b).latch = st.latch := rfl
@[simp] theorem State.setPhi2_eng (st : State) (b : Bool) : (st.setPhi2 b).eng = st.eng := rfl
@[simp] theorem State.setPhi2_bp_addr (st : State) (b : Bool) : (st.setPhi2 b).bp.addr = st.bp.addr := rfl
@[simp] theorem State.setPhi2_bp_data (st : State) (b : Bool) : (st.setPhi2 b).bp.data = st.bp.data := rfl
@[simp] theorem State.setPhi2_bp_phi2 (st : State) (b : Bool) : (st.setPhi2 b).bp.phi2 = (st.bp.phi2.set b).1 := rfl
@[simp] theorem State.setPhi2_bp_rwb (st : State) (b : Bool) : (st.setPhi2 b).bp.rwb = st.bp.rwb := rfl
@[simp] theorem State.setPhi2_bp_sync (st : State) (b : Bool) : (st.setPhi2 b).bp.sync = st.bp.sync := rfl
@[simp] theorem State.setPhi2_bp_vpb (st : State) (b : Bool) : (st.setPhi2 b).bp.vpb = st.bp.vpb := rfl
@[simp] theorem State.setPhi2_bp_mlb (st : State) (b : Bool) : (st.setPhi2 b).bp.mlb = st.bp.mlb := rfl
@[simp] theorem State.setPhi2_bp_rdy (st : State) (b : Bool) : (st.setPhi2 b).bp.rdy = st.bp.rdy := rfl
@[simp] theorem State.setPhi2_bp_resb (st : State) (b : Bool) : (st.setPhi2 b).bp.resb = st.bp.resb := rfl
@[simp] theorem State.setPhi2_bp_irqb (st : State) (b : Bool) : (st.setPhi2 b).bp.irqb = st.bp.irqb := rfl
@[simp] theorem State.setPhi2_bp_be (st : State) (b : Bool) : (st.setPhi2 b).bp.be = st.bp.be := rfl
@[simp] theorem State.setPhi2_devices (st : State) (b : Bool) : (st.setPhi2 b).devices = st.devices := rfl
@[simp] theorem State.setPhi2_waiSemantics (st : State) (b : Bool) : (st.setPhi2 b).waiSemantics = st.waiSemantics := rfl
@[simp] theorem State.setPhi2_script (st : State) (b : Bool) : (st.setPhi2 b).script = st.script := rfl
@[simp] theorem State.setPhi2_draws (st : State) (b : Bool) : (st.setPhi2 b).draws = st.draws := rfl
@[simp] theorem State.setLines_regs (st : State) (rwb sync vpb mlb : Bool) : (st.setLines rwb sync vpb mlb).regs = st.regs := rfl
@[simp] theorem State.setLines_latch (st : State) (rwb sync vpb mlb : Bool) : (st.setLines rwb sync vpb mlb).latch = st.latch := rfl
@[simp] theorem State.setLines_eng (st : State) (rwb sync vpb mlb : Bool) : (st.setLines rwb sync vpb mlb).eng = st.eng := rfl
@[simp] theorem State.setLines_bp_addr (st : State) (rwb sync vpb mlb : Bool) : (st.setLines rwb sync vpb mlb).bp.addr = st.bp.addr := rfl
@[simp] theorem State.setLines_bp_data (st : State) (rwb sync vpb mlb : Bool) : (st.setLines rwb sync vpb mlb).bp.data = st.bp.data := rfl
@[simp] theorem State.setLines_bp_phi2 (st : State) (rwb sync vpb mlb : Bool) : (st.setLines rwb sync vpb mlb).bp.phi2 = st.bp.phi2 := rfl
@[simp] theorem State.setLines_bp_rwb (st : State) (rwb sync vpb mlb : Bool) : (st.setLines rwb sync vpb mlb).bp.rwb = (st.bp.rwb.set rwb).1 := rfl
@[simp] theorem State.setLines_bp_sync (st : State) (rwb sync vpb mlb : Bool) : (st.setLines rwb sync vpb mlb).bp.sync = (st.bp.sync.set sync).1 := rfl
@[simp] theorem State.setLines_bp_vpb (st : State) (rwb sync vpb mlb : Bool) : (st.setLines rwb sync vpb mlb).bp.vpb = (st.bp.vpb.set vpb).1 := rfl
@[simp] theorem State.setLines_bp_mlb (st : State) (rwb sync vpb mlb : Bool) : (st.setLines rwb sync vpb mlb).bp.mlb = (st.bp.mlb.set mlb).1 := rfl
@[simp] theorem State.setLines_bp_rdy (st : State) (rwb sync vpb mlb : Bool) : (st.setLines rwb sync vpb mlb).bp.rdy = st.bp.rdy := rfl
@[simp] theorem State.setLines_bp_resb (st : State) (rwb sync vpb mlb : Bool) : (st.setLines rwb sync vpb mlb).bp.resb = st.bp.resb := rfl
@[simp] theorem State.setLines_bp_irqb (st : State) (rwb sync vpb mlb : Bool) : (st.setLines rwb sync vpb mlb).bp.irqb = st.bp.irqb := rfl
@[simp] theorem State.setLines_bp_be (st : State) (rwb sync vpb mlb : Bool) : (st.setLines rwb sync vpb mlb).bp.be = st.bp.be := rfl
@[simp] theorem State.setLines_devices (st : State) (rwb sync vpb mlb : Bool) : (st.setLines rwb sync vpb mlb).devices = st.devices := rfl
@[simp] theorem State.setLines_waiSemantics (st : State) (rwb sync vpb mlb : Bool) : (st.setLines rwb sync vpb mlb).waiSemantics = st.waiSemantics := rfl
@[simp] theorem State.setLines_script (st : State) (rwb sync vpb mlb : Bool) : (st.setLines rwb sync vpb mlb).script = st.script := rfl
@[simp] theorem State.setLines_draws (st : State) (rwb sync vpb mlb : Bool) : (st.setLines rwb sync vpb mlb).draws = st.draws := rfl
@[simp] theorem State.setDevices_regs (st : State) (v : List Device) : (st.setDevices v).regs = st.regs := rfl
@[simp] theorem State.setDevices_latch (st : State) (v : List Device) : (st.setDevices v).latch = st.latch := rfl
@[simp] theorem State.setDevices_eng (st : State) (v : List Device) : (st.setDevices v).eng = st.eng := rfl
@[simp] theorem State.setDevices_bp (st : State) (v : List Device) : (st.setDevices v).bp = st.bp := rfl
@[simp] theorem State.setDevices_devices (st : State) (v : List Device) : (st.setDevices v).devices = v := rfl
@[simp] theorem State.setDevices_waiSemantics (st : State) (v : List Device) : (st.setDevices v).waiSemantics = st.waiSemantics := rfl
@[simp] theorem State.setDevices_script (st : State) (v : List Device) : (st.setDevices v).script = st.script := rfl
@[simp] theorem State.setDevices_draws (st : State) (v : List Device) : (st.setDevices v).draws = st.draws := rfl
@[simp] theorem State.setDraws_regs (st : State) (v : Nat) : (st.setDraws v).regs = st.regs := rfl
@[simp] theorem State.setDraws_latch (st : State) (v : Nat) : (st.setDraws v).latch = st.latch := rfl
@[simp] theorem State.setDraws_eng (st : State) (v : Nat) : (st.setDraws v).eng = st.eng := rfl
@[simp] theorem State.setDraws_bp (st : State) (v : Nat) : (st.setDraws v).bp = st.bp := rfl
@[simp] theorem State.setDraws_devices (st : State) (v : Nat) : (st.setDraws v).devices = st.devices := rfl
@[simp] theorem State.setDraws_waiSemantics (st : State) (v : Nat) : (st.setDraws v).waiSemantics = st.waiSemantics := rfl
@[simp] theorem State.setDraws_script (st : State) (v : Nat) : (st.setDraws v).script = st.script := rfl
@[simp] theorem State.setDraws_draws (st : State) (v : Nat) : (st.setDraws v).draws = v := rfl

end Sys2Proof.Machine
end

