-- ==== Sys2Proof/Laws/Engine.lean ====
section
/-!
SUPPORT. What one quiet cycle can do, said once: from what a state holds before the cycle to what it holds after it. Every later
proof about an instruction goes cycle by cycle through these lemmas and never unfolds the engine.
-/

namespace Sys2Proof.Machine

/-! ### Meanings are runs -/

/-- Every meaning is the engine's run of its opcode. -/
theorem exec_eq (i : Instr) (s : State) : exec i s = runInstr i s := by cases i <;> rfl

/-- The decoder reads every opcode back. -/
@[simp] theorem decodeOpcode_opcode (i : Instr) : decodeOpcode i.opcode = i := by cases i <;> rfl

theorem mnemonic_eq_wai {i : Instr} (h : i.list ≠ .wai) : i ≠ .wai := by rintro rfl; exact h rfl

/-! ### What a state holds -/

/-- What no undisturbed cycle changes: the parameter and the level of IRQB. -/
structure Ambient where
  wai : WaiSemantics
  irqb : Bool

/-- No IRQ is latched at the next edge (spec R165). -/
def Calm (w : Ambient) (r : Regs) (e : Engine) : Prop := w.irqb = true ∨ flag bitI r.p = true ∨ e.mode ≠ .none

/-- WAI's INTERNAL cycle neither stops the model nor waits (spec R347). -/
def Passes (w : Ambient) : Prop := w.wai = .nop ∨ w.wai = .waitForIrq ∧ w.irqb = false

theorem Passes.ne {w : Ambient} (h : Passes w) : w.wai ≠ .refuse := by rcases h with h | ⟨h, -⟩ <;> simp [h]

theorem Passes.goes {w : Ambient} (h : Passes w) : w.wai ≠ .waitForIrq ∨ w.irqb = false := by
  rcases h with h | ⟨-, h⟩
  · exact .inl (by simp [h])
  · exact .inr h

/-- The parts of a state that a cycle reads: the registers, the latches, the engine state, the devices, the byte on DATA, the
count of free values, the parameter and IRQB; with the clock at level `ph`, RDY true and RESB not asserted. -/
structure Holds (ph : Bool) (s : State) (r : Regs) (l : Latches) (e : Engine) (ds : List Device) (v : Byte) (n : Nat)
    (w : Ambient) : Prop where
  regs : s.regs = r
  latch : s.latch = l
  eng : s.eng = e
  devices : s.devices = ds
  data : s.dataBus = v
  draws : s.draws = n
  wai : s.waiSemantics = w.wai
  script : s.script = []
  phi2 : s.bp.phi2.level = ph
  rdy : s.bp.rdy.level = true
  resb : s.bp.resb.level = true
  irqb : s.bp.irqb.level = w.irqb

variable {ph : Bool} {s : State} {r : Regs} {l : Latches} {e : Engine} {ds : List Device} {v : Byte} {n : Nat} {w : Ambient}

theorem State.Quiet.holds (h : s.Quiet) :
    Holds true s s.regs s.latch s.eng s.devices s.dataBus s.draws ⟨s.waiSemantics, s.bp.irqb.level⟩ :=
  ⟨rfl, rfl, rfl, rfl, rfl, rfl, rfl, h.noInput, h.clock, h.rdy, h.resb, rfl⟩

/-! ### The parts of a cycle on the parts of a state -/

/-- The latches after a byte is captured (spec R166). -/
def capLatch (t : DataTag) (d : Direction) (v : Byte) (l : Latches) : Latches :=
  match d, t with
  | .write, _ => l
  | .read, .opcode => { l with ir := v }
  | .read, .data => { l with d := v }
  | .read, .zpPtr => { l with zp := v }
  | .read, .al => { l with al := v }
  | .read, .ah => { l with ah := v }
  | .read, .npcl => { l with npcl := v }
  | .read, .npch => { l with npch := v }
  | .read, .p | .read, .internal | .read, .null | .read, .halt | .read, .pcl | .read, .pch => l

/-- The registers after a byte is captured, where it is not a branch's offset (spec R166). -/
def capRegs (t : DataTag) (d : Direction) (v : Byte) (l : Latches) (r : Regs) : Regs :=
  match d, t with
  | .read, .p => { r with p := v }
  | .read, .npch => { r with pc := join v l.npcl }
  | _, _ => r

/-- The registers after an address is driven (spec R105). -/
def addrRegs (t : AddrTag) (r : Regs) : Regs :=
  match t with
  | .pcInc => { r with pc := r.pc + 1#16 }
  | .spPreinc => { r with s := r.s + 1#8 }
  | .spPostdec => { r with s := r.s - 1#8 }
  | _ => r

/-- The address driven, where the vector is at `vec` (spec R105). -/
def addrOut (t : AddrTag) (r : Regs) (l : Latches) (vec : Word) : Word :=
  match t with
  | .pc | .pcInc => r.pc
  | .abs | .absInc => join l.ah l.al
  | .absX => indexed (join l.ah l.al) r.x
  | .absY => indexed (join l.ah l.al) r.y
  | .absXP1 => indexed (join l.ah l.al) r.x + 1#16
  | .zp | .zpInc => zpAddr l.zp
  | .zpX => zpAddr (l.zp + r.x)
  | .zpY => zpAddr (l.zp + r.y)
  | .zpXP1 => zpAddr (l.zp + r.x + 1#8)
  | .sp | .spPostdec => stackAddr r.s
  | .spPreinc => stackAddr (r.s + 1#8)
  | .vecLo => vec
  | .vecHi => vec + 1#16

/-- The latches after an address is driven (spec R105). -/
def addrLatch (t : AddrTag) (r : Regs) (l : Latches) : Latches :=
  match t with
  | .absX | .absY | .absXP1 => { l with eal := loByte (addrOut t r l 0#16), eah := hiByte (addrOut t r l 0#16) }
  | .absInc => { l with al := loByte (join l.ah l.al + 1#16), ah := hiByte (join l.ah l.al + 1#16) }
  | .zpInc => { l with zp := l.zp + 1#8 }
  | _ => l

/-- The vector address of what runs (spec R105). -/
def engVector (e : Engine) : Option Word := if e.list = .brk then some Config.vectorIrq else e.mode.vector

/-- The engine after step 7, where nothing waits (spec R176, R177). -/
def advEng (e : Engine) : Engine :=
  if e.idx = 0 then { e with idx := 1, cycles := e.cycles + 1 }
  else if e.idx + 1 = (cyclesOf e.list).length then
    { e with idx := 0, pending := some e.instr, mode := .none, cycles := e.cycles + 1 }
  else { e with idx := e.idx + 1, cycles := e.cycles + 1 }

/-! ### Falling edge -/

theorem Signal.set_level (g : Signal) (b : Bool) : (g.set b).1.level = b := rfl

theorem setStopped_self (h : s.eng.stopped = false) : s.setStopped false = s := by
  cases s with | mk r l e => cases e; simp_all [State.setStopped]

theorem Holds.fall (h : Holds ph s r l e ds v n w) (b : Bool) : Holds b (s.setPhi2 b) r l e ds v n w :=
  ⟨h.regs, h.latch, h.eng, h.devices, h.data, h.draws, h.wai, h.script, rfl, h.rdy, h.resb, h.irqb⟩

/-- Step 2 does nothing where RESB is not asserted and no IRQ is latched (spec R164, R165). -/
theorem Holds.sample_id (h : Holds ph s r l e ds v n w) (hq : Calm w r e) : s.sample = s := by
  unfold State.sample
  rw [h.resb, h.irqb, h.regs, h.eng, if_neg (by decide), if_neg]
  rintro ⟨h2, h3, h4⟩
  rcases hq with hq | hq | hq
  · rw [hq] at h2; exact absurd h2 (by decide)
  · rw [hq] at h3; exact absurd h3 (by decide)
  · exact hq h4

/-- In a quiet state a cycle is steps 3 to 7, then the device edge. -/
theorem Holds.cycle (h : Holds true s r l e ds v n w) (hq : Calm w r e) (hs : e.stopped = false) (hx : e.extra = 0) {t : State}
    (ht : (s.setPhi2 false).capture.select.deferred.runCycle = .next t) : s.cycle = .next t.clockRises := by
  have h0 := h.fall false
  have h1 : (s.setPhi2 false).eng.stopped = false := by rw [h0.eng, hs]
  have h2 := h0.sample_id hq
  simp only [State.cycle, State.takeInput, h.script, State.clockFalls, h.phi2, if_true, State.cpuEdge, h0.rdy, h1]
  simp [setStopped_self h1, State.tick, h.eng, hx, h2, ht]

/-- MODE after step 2 where RESB is not asserted (spec R165). -/
def latchMode (w : Ambient) (r : Regs) (e : Engine) : Mode :=
  if w.irqb = false ∧ flag bitI r.p = false ∧ e.mode = .none then .irq else e.mode

theorem latchMode_calm (hq : Calm w r e) : latchMode w r e = e.mode := by
  unfold latchMode
  rw [if_neg]
  rintro ⟨h1, h2, h3⟩
  rcases hq with hq | hq | hq
  · rw [hq] at h1; exact absurd h1 (by decide)
  · rw [hq] at h2; exact absurd h2 (by decide)
  · exact hq h3

/-- MODE after step 2 is what it was, or IRQ where IRQB is asserted and I clear. -/
theorem latchMode_cases (w : Ambient) (r : Regs) (e : Engine) :
    latchMode w r e = e.mode ∨ latchMode w r e = .irq ∧ w.irqb = false ∧ flag bitI r.p = false := by
  unfold latchMode
  split
  · rename_i h; exact .inr ⟨rfl, h.1, h.2.1⟩
  · exact .inl rfl

theorem calm_latchMode (w : Ambient) (r : Regs) (e : Engine) : Calm w r { e with mode := latchMode w r e } := by
  unfold Calm latchMode
  by_cases h : w.irqb = false ∧ flag bitI r.p = false ∧ e.mode = .none
  · rw [if_pos h]; exact .inr (.inr Mode.noConfusion)
  · rw [if_neg h]
    by_cases h1 : w.irqb = false
    · by_cases h2 : flag bitI r.p = false
      · exact .inr (.inr fun h3 => h ⟨h1, h2, h3⟩)
      · exact .inr (.inl (by simpa using h2))
    · exact .inl (by simpa using h1)

/-- Step 2 in the parts of a state: at most MODE changes (spec R165). -/
theorem Holds.latched (h : Holds ph s r l e ds v n w) : s.sample = s.setMode (latchMode w r e) ∧
    Holds ph (s.setMode (latchMode w r e)) r l { e with mode := latchMode w r e } ds v n w := by
  refine ⟨?_, h.regs, h.latch, by simp [State.setMode, h.eng], h.devices, h.data, h.draws, h.wai, h.script, h.phi2, h.rdy, h.resb,
    h.irqb⟩
  unfold State.sample latchMode
  rw [h.resb, h.irqb, h.regs, h.eng, if_neg (by decide)]
  split
  · rfl
  · rw [← h.eng]; rfl

/-- A cycle is that of the state with the IRQ latched already, where step 2 latches one (spec R165). -/
theorem Holds.cycle_latched (h : Holds true s r l e ds v n w) (hs : e.stopped = false) (hx : e.extra = 0) :
    s.cycle = (s.setMode (latchMode w r e)).cycle := by
  have h0 := h.fall false
  have h1 := h.latched.2
  have h2 := h1.fall false
  have h3 : (s.setPhi2 false).eng.stopped = false := by rw [h0.eng, hs]
  have h4 : ((s.setMode (latchMode w r e)).setPhi2 false).eng.stopped = false := by rw [h2.eng]; exact hs
  have h5 : (s.setPhi2 false).sample = ((s.setMode (latchMode w r e)).setPhi2 false).sample := by
    rw [h0.latched.1, h2.sample_id (calm_latchMode w r e)]; rfl
  simp only [State.cycle, State.takeInput, h.script, h1.script, State.clockFalls, h.phi2, h1.phi2, if_true, State.cpuEdge, h0.rdy, h2.rdy,
    h3, h4]
  simp [setStopped_self h3, setStopped_self h4, State.tick, h.eng, hx, h5]

/-- An extra cycle answers the same bus cycle again and counts (spec R163, R183). -/
theorem Holds.extraCycle (h : Holds true s r l e ds v n w) (hs : e.stopped = false) (hx : 0 < e.extra) :
    s.cycle = .next (((s.setPhi2 false).setExtra (e.extra - 1)).count).clockRises := by
  have h0 := h.fall false
  have h1 : (s.setPhi2 false).eng.stopped = false := by rw [h0.eng, hs]
  simp only [State.cycle, State.takeInput, h.script, State.clockFalls, h.phi2, if_true, State.cpuEdge, h0.rdy, h1]
  simp [setStopped_self h1, State.tick, h.eng, hx]

/-! ### Steps 3 to 7 -/

theorem Holds.capture (h : Holds ph s r l e ds v n w) (hp : e.pending = none ∨ e.prevTag ≠ .data ∨ e.prevRw = .write) :
    Holds ph s.capture (capRegs e.prevTag e.prevRw v l r) (capLatch e.prevTag e.prevRw v l) e ds v n w := by
  have hb : e.prevTag = .data → e.prevRw = .read → (s.setD v).branchEval v = s.setD v := by
    intro h1 h2
    have : s.eng.pending = none := by rw [h.eng]; rcases hp with h3 | h3 | h3 <;> simp_all
    simp [State.branchEval, this]
  unfold State.capture
  rw [h.eng, h.data]
  cases hrw : e.prevRw with
  | write => exact ⟨h.regs, h.latch, h.eng, h.devices, h.data, h.draws, h.wai, h.script, h.phi2, h.rdy, h.resb, h.irqb⟩
  | read =>
    cases htag : e.prevTag
    case data =>
      simp only
      rw [hb htag hrw]
      exact ⟨h.regs, by simp [capLatch, State.setD, h.latch], h.eng, h.devices, h.data, h.draws, h.wai, h.script, h.phi2, h.rdy,
        h.resb, h.irqb⟩
    all_goals
      refine ⟨?_, ?_, h.eng, h.devices, h.data, h.draws, h.wai, h.script, h.phi2, h.rdy, h.resb, h.irqb⟩
      · simp [capRegs, State.pullStatus, State.commitPc, State.setIr, State.setP, State.setZp, State.setAl, State.setAh,
          State.setNpcl, State.setNpch, State.setPc, h.regs, h.latch]
      · simp [capLatch, State.pullStatus, State.commitPc, State.setIr, State.setP, State.setZp, State.setAl, State.setAh,
          State.setNpcl, State.setNpch, State.setPc, h.latch]

theorem Holds.select_id (h : Holds ph s r l e ds v n w) (hi : e.idx ≠ 1) : s.select = s := by
  simp [State.select, h.eng, hi]

theorem Holds.deferred_id (h : Holds ph s r l e ds v n w) (hp : e.pending = none ∨ e.idx ≠ 0) : s.deferred = s := by
  unfold State.deferred
  rw [h.eng]
  rcases hp with hp | hp
  · rw [hp]
  · cases e.pending <;> simp [hp]

/-- The selection of an instruction's list (spec R168). -/
theorem Holds.select (h : Holds ph s r l e ds v n w) (hi : e.idx = 1) (hm : e.mode = .none) {i : Instr}
    (hir : l.ir = i.opcode) (hl : (cyclesOf i.list).length ≠ 1) :
    Holds ph s.select r l { e with list := i.list, instr := .instr i } ds v n w := by
  have h1 : s.select = (s.setList i.list).setInstr (.instr i) := by
    simp only [State.select, h.eng, hi, hm, if_true, State.beginInstr, h.latch, hir, decodeOpcode_opcode]
    rw [if_neg hl]
  rw [h1]
  exact ⟨h.regs, h.latch, by simp [State.setInstr, State.setList, h.eng], h.devices, h.data, h.draws, h.wai, h.script,
    h.phi2, h.rdy, h.resb, h.irqb⟩

theorem Holds.vector (h : Holds ph s r l e ds v n w) : s.vectorAddr = engVector e := by
  simp [State.vectorAddr, engVector, h.eng]

theorem Holds.address (h : Holds ph s r l e ds v n w) (t : AddrTag) :
    Holds ph (s.driveAddress t) (addrRegs t r) (addrLatch t r l) e ds v n w ∧
      (s.driveAddress t).bp.addr.value = addrOut t r l ((engVector e).getD 0#16) := by
  have hr := h.regs
  have hl := h.latch
  have hb : s.absBase = join l.ah l.al := by simp [State.absBase, hl]
  have hvec := h.vector
  cases t <;>
    refine ⟨⟨?_, ?_, h.eng, h.devices, h.data, h.draws, h.wai, h.script, h.phi2, h.rdy, h.resb, h.irqb⟩, ?_⟩ <;>
    simp [State.driveAddress, State.driveIndexed, addrRegs, addrLatch, addrOut, State.setAddr, State.setPc, State.setEal,
      State.setEah, State.setAl, State.setAh, State.setZp, State.setS, hr, hl, hb, hvec]

theorem Holds.lines (h : Holds ph s r l e ds v n w) (a b c d : Bool) : Holds ph (s.setLines a b c d) r l e ds v n w :=
  ⟨h.regs, h.latch, h.eng, h.devices, h.data, h.draws, h.wai, h.script, h.phi2, h.rdy, h.resb, h.irqb⟩

theorem Holds.setPrev (h : Holds ph s r l e ds v n w) (t : DataTag) (d : Direction) :
    Holds ph (s.setPrev t d) r l { e with prevTag := t, prevRw := d } ds v n w :=
  ⟨h.regs, h.latch, by simp [State.setPrev, h.eng], h.devices, h.data, h.draws, h.wai, h.script, h.phi2, h.rdy, h.resb, h.irqb⟩

theorem Holds.setExtra (h : Holds ph s r l e ds v n w) (k : Nat) : Holds ph (s.setExtra k) r l { e with extra := k } ds v n w :=
  ⟨h.regs, h.latch, by simp [State.setExtra, h.eng], h.devices, h.data, h.draws, h.wai, h.script, h.phi2, h.rdy, h.resb, h.irqb⟩

theorem Holds.count (h : Holds ph s r l e ds v n w) : Holds ph s.count r l { e with cycles := e.cycles + 1 } ds v n w :=
  ⟨h.regs, h.latch, by simp [State.count, State.setCycles, h.eng], h.devices, h.data, h.draws, h.wai, h.script, h.phi2, h.rdy, h.resb,
    h.irqb⟩

/-- Step 7 and the count, where nothing waits (spec R176). -/
theorem Holds.advance (h : Holds ph s r l e ds v n w) (hw : e.list = .wai → e.idx = 2 → Passes w) :
    Holds ph s.advance.count r l (advEng e) ds v n w := by
  have hnw : s.waiting = false := by
    simp only [State.waiting, h.eng, h.wai, h.irqb]
    by_cases hl : e.list = .wai
    · by_cases hi : e.idx = 2
      · rcases (hw hl hi).goes with h1 | h1 <;> simp [h1]
      · simp [hi]
    · simp [hl]
  unfold State.advance advEng
  rw [h.eng, hnw]
  split
  · exact ⟨h.regs, h.latch, by simp [State.count, State.setCycles, State.setIdx, h.eng], h.devices, h.data, h.draws, h.wai, h.script,
      h.phi2, h.rdy, h.resb, h.irqb⟩
  · simp only [Bool.false_eq_true, if_false]
    split
    · simp only [State.setPending_bp, State.setIdx_bp, h.resb, if_true]
      exact ⟨h.regs, h.latch, by simp [State.count, State.setCycles, State.setIdx, State.setPending, State.setMode, h.eng], h.devices,
        h.data, h.draws, h.wai, h.script, h.phi2, h.rdy, h.resb, h.irqb⟩
    · exact ⟨h.regs, h.latch, by simp [State.count, State.setCycles, State.setIdx, h.eng], h.devices, h.data, h.draws, h.wai,
        h.script, h.phi2, h.rdy, h.resb, h.irqb⟩

/-- Step 7 and the count leave every line as it is. -/
theorem advance_count_bp (u : State) : u.advance.count.bp = u.bp := by
  show u.advance.bp = u.bp
  unfold State.advance
  split
  · rfl
  · split
    · rfl
    · split
      · by_cases hb : u.bp.resb.level = true <;> simp [hb]
      · rfl

/-! ### Step 6: data -/

/-- The byte a write cycle drives (spec R171, R174, R175). -/
def outByte (c : Cycle) (e : Engine) (r : Regs) (l : Latches) (v : Byte) : Byte :=
  match c.data with
  | .data => match e.instr with
    | .intr => v
    | .instr i => match i.mnemonic with
      | .sta | .pha => r.a
      | .stx | .phx => r.x
      | .sty | .phy => r.y
      | .stz => 0x00#8
      | _ => l.d
  | .p => pushedStatus e.list r.p
  | .pcl => loByte r.pc
  | .pch => hiByte r.pc
  | _ => v

/-- The registers after an internal operation (spec R173). -/
def internalRegs (m : Mnemonic) (r : Regs) (l : Latches) : Regs :=
  match m with
  | .asl => { r with p := shifted (shiftLeft l.d) r.p }
  | .lsr => { r with p := shifted (shiftRight l.d) r.p }
  | .rol => { r with p := shifted (rotateLeft l.d (flag bitC r.p)) r.p }
  | .ror => { r with p := shifted (rotateRight l.d (flag bitC r.p)) r.p }
  | .inc => { r with p := setNZ (l.d + 1#8) r.p }
  | .dec => { r with p := setNZ (l.d - 1#8) r.p }
  | .tsb | .trb => { r with p := setFlag bitZ (r.a &&& l.d == 0#8) r.p }
  | _ => r

/-- The latches after an internal operation (spec R173). -/
def internalLatch (m : Mnemonic) (r : Regs) (l : Latches) : Latches :=
  match m with
  | .asl => { l with d := (shiftLeft l.d).1 }
  | .lsr => { l with d := (shiftRight l.d).1 }
  | .rol => { l with d := (rotateLeft l.d (flag bitC r.p)).1 }
  | .ror => { l with d := (rotateRight l.d (flag bitC r.p)).1 }
  | .inc => { l with d := l.d + 1#8 }
  | .dec => { l with d := l.d - 1#8 }
  | .tsb => { l with d := l.d ||| r.a }
  | .trb => { l with d := l.d &&& ~~~r.a }
  | .rmb b => { l with d := clearBit b l.d }
  | .smb b => { l with d := setBit b l.d }
  | .bbr b => { l with bd := !l.d.getLsbD b.val }
  | .bbs b => { l with bd := l.d.getLsbD b.val }
  | _ => l

/-- The registers after the data of a cycle: the status push of an entry changes P, an internal operation may (spec R173, R378). -/
def dataRegs (c : Cycle) (e : Engine) (r : Regs) (l : Latches) : Regs :=
  match c.rw, c.data with
  | .write, .p => if e.list = .brk ∨ e.list = .intr then { r with p := enteredStatus r.p } else r
  | .read, .internal => match e.instr with
    | .intr => r
    | .instr i => internalRegs i.mnemonic r l
  | _, _ => r

/-- The latches after the data of a cycle. -/
def dataLatch (c : Cycle) (e : Engine) (r : Regs) (l : Latches) : Latches :=
  match c.rw, c.data with
  | .read, .internal => match e.instr with
    | .intr => l
    | .instr i => internalLatch i.mnemonic r l
  | _, _ => l

/-- The extra cycle a read schedules (spec R172). -/
def penaltyOf (c : Cycle) (e : Engine) (l : Latches) : Nat :=
  if (e.list = .absxR ∨ e.list = .absyR ∨ e.list = .izyR) ∧ c.data = .data ∧ c.rw = .read ∧ l.eah ≠ l.ah then 1 else 0

theorem internal_bp (m : Mnemonic) (s : State) : (internal m s).bp = s.bp := by cases m <;> rfl

theorem Holds.internal (h : Holds ph s r l e ds v n w) (m : Mnemonic) :
    Holds ph (internal m s) (internalRegs m r l) (internalLatch m r l) e ds v n w := by
  have hr := h.regs
  have hl := h.latch
  cases m <;>
    refine ⟨?_, ?_, h.eng, h.devices, h.data, h.draws, h.wai, h.script, h.phi2, h.rdy, h.resb, h.irqb⟩ <;>
    simp [Machine.internal, internalRegs, internalLatch, internalAsl, internalLsr, internalRol, internalRor, internalInc, internalDec,
      internalTsb, internalTrb, internalRmb, internalSmb, internalBbr, internalBbs, State.shiftD, State.putD, State.testD, State.mapP,
      State.setD, State.setP, State.setBd, hr, hl]

theorem Holds.setData (h : Holds ph s r l e ds v n w) (v' : Byte) : Holds ph (s.setData v') r l e ds v' n w :=
  ⟨h.regs, h.latch, h.eng, h.devices, rfl, h.draws, h.wai, h.script, h.phi2, h.rdy, h.resb, h.irqb⟩

theorem Holds.writeByte (h : Holds ph s r l e ds v n w) (c : Cycle) : s.writeByte c.data = outByte c e r l v := by
  unfold State.writeByte outByte
  have hm : s.eng.instr.mnemonic = e.instr.mnemonic := by rw [h.eng]
  rw [hm, h.data, h.regs, h.eng]
  cases c.data <;> try rfl
  cases e.instr with
  | intr => rfl
  | instr i =>
    simp only [Running.mnemonic]
    cases i.mnemonic <;> simp [storeValue, h.regs, h.latch]

/-- The data of a cycle that does not halt (spec R171). -/
theorem Holds.driveData (h : Holds ph s r l e ds v n w) (c : Cycle) (hc : c.data ≠ .halt) :
    Holds ph (s.driveData c) (dataRegs c e r l) (dataLatch c e r l) e ds (if c.rw = .write then outByte c e r l v else v) n w := by
  have hwb := h.writeByte c
  unfold State.driveData dataRegs dataLatch
  cases hrw : c.rw with
  | write =>
    simp only [if_true]
    cases hd : c.data <;> simp only [hd] at hwb hc ⊢
    case p =>
      rw [hwb]
      have h1 := h.setData (outByte c e r l v)
      simp only [State.afterStatusPush, h1.eng]
      split
      · exact ⟨by simp [State.mapP, State.setP, State.setData, h.regs], h1.latch, h1.eng, h1.devices, h1.data, h1.draws, h1.wai,
          h1.script, h1.phi2, h1.rdy, h1.resb, h1.irqb⟩
      · exact h1
    all_goals rw [hwb]; exact h.setData _
  | read =>
    simp only [reduceCtorEq, if_false]
    cases hd : c.data <;> simp only [hd] at hc ⊢
    case internal =>
      rw [h.eng]
      cases e.instr with
      | intr => exact h
      | instr i => exact h.internal i.mnemonic
    case halt => exact absurd rfl hc
    all_goals exact h

theorem Holds.penalty (h : Holds ph s r l e ds v n w) (c : Cycle) :
    Holds ph (s.penalty c) r l { e with extra := e.extra + penaltyOf c e l } ds v n w := by
  unfold State.penalty penaltyOf
  rw [h.eng, h.latch]
  split
  · have h1 := h.setExtra (e.extra + 1)
    simpa [State.scheduleExtra, h.eng] using h1
  · exact h

theorem penalty_bp (s : State) (c : Cycle) : (s.penalty c).bp = s.bp := by unfold State.penalty; split <;> rfl

theorem driveData_lines (s : State) (c : Cycle) :
    (s.driveData c).bp.addr = s.bp.addr ∧ (s.driveData c).bp.rwb = s.bp.rwb := by
  unfold State.driveData
  cases c.rw with
  | write =>
    cases c.data
    case p => simp only [State.afterStatusPush, State.mapP]; split <;> exact ⟨rfl, rfl⟩
    all_goals exact ⟨rfl, rfl⟩
  | read =>
    cases c.data
    case internal => simp only; cases s.eng.instr.mnemonic <;> simp [internal_bp]
    all_goals exact ⟨rfl, rfl⟩

/-- Step 6 of a cycle that does not halt (spec R171). -/
theorem Holds.drive (h : Holds ph s r l e ds v n w) (c : Cycle) (hc : c.data ≠ .halt) :
    Holds ph (s.drive c)
      (dataRegs c e (addrRegs c.addr r) (addrLatch c.addr r l)) (dataLatch c e (addrRegs c.addr r) (addrLatch c.addr r l))
      { e with prevTag := c.data, prevRw := c.rw
               extra := e.extra + penaltyOf c e (dataLatch c e (addrRegs c.addr r) (addrLatch c.addr r l)) }
      ds (if c.rw = .write then outByte c e (addrRegs c.addr r) (addrLatch c.addr r l) v else v) n w ∧
    (s.drive c).bp.addr.value = addrOut c.addr r l ((engVector e).getD 0#16) ∧ (s.drive c).bp.rwb.level = (c.rw == .read) := by
  obtain ⟨h1, ha⟩ := h.address c.addr
  have h2 := h1.lines (c.rw == .read) c.sync c.vpb c.mlb
  have h3 := h2.driveData c hc
  have h4 := (h3.penalty c).setPrev c.data c.rw
  have h5 := driveData_lines ((s.driveAddress c.addr).setLines (c.rw == .read) c.sync c.vpb c.mlb) c
  refine ⟨h4, ?_, ?_⟩
  · rw [← ha]; simp only [State.drive, State.setPrev_bp, penalty_bp, h5.1]; rfl
  · simp only [State.drive, State.setPrev_bp, penalty_bp, h5.2]; rfl

/-- The device edge of a read cycle (spec R78). -/
theorem Holds.riseRead (h : Holds ph s r l e ds v n w) (hs : Solid ds) (hrw : s.bp.rwb.level = true) :
    Holds true s.clockRises r l e ds (readAll ds s.bp.addr.value) n w ∧
      s.clockRises.bp.addr.value = s.bp.addr.value ∧ s.clockRises.bp.rwb.level = true := by
  have hd := h.data
  have : s.clockRises = ((s.setPhi2 true).setData (readAll ds s.bp.addr.value)).setDraws n := by
    simp only [State.clockRises, State.deviceEdge, State.setPhi2_bp_rwb, hrw, if_true, State.setPhi2_devices, h.devices,
      State.setPhi2_bp_addr, State.setPhi2_draws, h.draws]
    rw [answerAll_solid hs]
  rw [this]
  exact ⟨⟨h.regs, h.latch, h.eng, h.devices, rfl, rfl, h.wai, h.script, rfl, h.rdy, h.resb, h.irqb⟩, rfl, hrw⟩

/-- The device edge of a write cycle (spec R78). -/
theorem Holds.riseWrite (h : Holds ph s r l e ds v n w) (hrw : s.bp.rwb.level = false) :
    Holds true s.clockRises r l e (takeAll ds s.bp.addr.value v) v n w := by
  have : s.clockRises = (s.setPhi2 true).setDevices (takeAll ds s.bp.addr.value v) := by
    simp only [State.clockRises, State.deviceEdge, State.setPhi2_bp_rwb, hrw, Bool.false_eq_true, if_false, State.setPhi2_devices,
      h.devices, State.setPhi2_bp_addr]
    congr 2
    exact h.data
  rw [this]
  exact ⟨h.regs, h.latch, h.eng, rfl, h.data, h.draws, h.wai, h.script, rfl, h.rdy, h.resb, h.irqb⟩

/-- The cycle at IDX is driven (spec R171). -/
theorem Holds.runCycle (h : Holds ph s r l e ds v n w) {c : Cycle} (hc : (cyclesOf e.list)[e.idx]? = some c)
    (hv : (c.addr = .vecLo ∨ c.addr = .vecHi) → engVector e ≠ none) (hw : e.instr = .instr .wai → c.data = .internal → w.wai ≠ .refuse) :
    s.runCycle = .next (s.drive c).advance.count := by
  unfold State.runCycle
  rw [h.eng, hc, h.vector, h.wai]
  simp only
  rw [if_neg (fun hh => hv hh.1 hh.2), if_neg (fun hh => hw hh.1 hh.2.1 hh.2.2)]

end Sys2Proof.Machine
end

