-- ==== Sys2Proof/Laws/Words.lean ====
section
/-!
SUPPORT. Laws of the word joins, of the flags of P and of the address forms.
-/

namespace Sys2Proof

@[simp] theorem hiByte_join (h l : Byte) : hiByte (join h l) = h := by
  apply BitVec.eq_of_getLsbD_eq
  intro i hi
  simp only [hiByte, join, BitVec.getLsbD_extractLsb', BitVec.getLsbD_append]
  simp [hi]

@[simp] theorem loByte_join (h l : Byte) : loByte (join h l) = l := by
  apply BitVec.eq_of_getLsbD_eq
  intro i hi
  simp only [loByte, join, BitVec.getLsbD_extractLsb', BitVec.getLsbD_append]
  simp [hi]

@[simp] theorem join_hiByte_loByte (w : Word) : join (hiByte w) (loByte w) = w := by
  apply BitVec.eq_of_getLsbD_eq
  intro i hi
  simp only [hiByte, loByte, join, BitVec.getLsbD_extractLsb', BitVec.getLsbD_append]
  by_cases h : i < 8
  · simp [h]
  · have h1 : i - 8 < 8 := by omega
    have h2 : 8 + (i - 8) = i := by omega
    simp [h, h1, h2]

theorem toNat_bne {α : Type} [DecidableEq α] (a b : α) : (a != b).toNat = if a = b then 0 else 1 := by
  by_cases h : a = b <;> simp [h]

namespace Machine

/-- A flag just set reads as set to. -/
theorem flag_setFlag_self (k : Nat) (hk : k < 8) (b : Bool) (p : Byte) : flag k (setFlag k b p) = b := by
  unfold flag setFlag
  cases b <;> simp [hk]

/-- Every other flag reads as before. -/
theorem flag_setFlag_ne (j k : Nat) (h : j ≠ k) (b : Bool) (p : Byte) : flag j (setFlag k b p) = flag j p := by
  unfold flag setFlag
  have key : j < 8 → (1#8 <<< k).getLsbD j = false := by
    intro hj
    rw [BitVec.getLsbD_shiftLeft]
    rcases Nat.lt_or_ge j k with h1 | h1
    · simp [h1]
    · have : j - k ≠ 0 := by omega
      simp [BitVec.getLsbD_one, this]
  by_cases hj : j < 8
  · cases b
    · simp only [Bool.false_eq_true, if_false, BitVec.getLsbD_and, BitVec.getLsbD_not, key hj, hj]; simp
    · simp only [if_true, BitVec.getLsbD_or, key hj]; simp
  · rw [BitVec.getLsbD_of_ge _ _ (by omega), BitVec.getLsbD_of_ge _ _ (by omega)]

/-- `setNZ` leaves every other flag. -/
theorem flag_setNZ {k : Nat} (h1 : k ≠ bitZ) (h2 : k ≠ bitN) (v p : Byte) : flag k (setNZ v p) = flag k p := by
  rw [setNZ, flag_setFlag_ne _ _ h1, flag_setFlag_ne _ _ h2]

/-- A shift leaves every flag but N, Z and C. -/
theorem flag_shifted {k : Nat} (h1 : k ≠ bitZ) (h2 : k ≠ bitN) (h3 : k ≠ bitC) (r : Byte × Bool) (p : Byte) :
    flag k (shifted r p) = flag k p := by
  rw [shifted, flag_setNZ h1 h2, flag_setFlag_ne _ _ h3]

/-- Interrupt entry sets I (spec R378). -/
theorem enteredStatus_i (p : Byte) : flag bitI (enteredStatus p) = true := by
  rw [enteredStatus, flag_setFlag_ne _ _ (by decide), flag_setFlag_self _ (by decide)]

/-- A status byte is its eight flags. -/
theorem status_ext {p q : Byte} (h : ∀ k, k < 8 → flag k p = flag k q) : p = q := by
  apply BitVec.eq_of_getLsbD_eq; exact h

/-- Stack addresses in page 1 are distinct where their low bytes are. -/
theorem stackAddr_ne {a b : Byte} (h : a ≠ b) : stackAddr a ≠ stackAddr b := by
  intro e; exact h (by have := congrArg loByte e; simpa [stackAddr] using this)

/-- A stack address is never a vector address (spec R83). -/
theorem stackAddr_ne_vector (a : Byte) {w : Word} (h : hiByte w = 0xFF#8) : w ≠ stackAddr a := by
  intro e; rw [e] at h; simp [stackAddr, Config.stackPage] at h

end Machine

end Sys2Proof
end

