-- ==== Sys2Proof/Laws/Runs.lean ====
section
/-!
SUPPORT. A whole list of cycles as one function of the parts of a state, and the run that carries it out: `runView` says what the
cycles of a list leave, `Reaches` says that the engine gets there.
-/

namespace Sys2Proof.Machine

/-! ### Parts of a state -/

/-- The parts of a state that change while a list runs. -/
structure View where
  r : Regs
  l : Latches
  e : Engine
  ds : List Device
  v : Byte

/-- A quiet state holds these parts. -/
abbrev HoldsV (ph : Bool) (s : State) (x : View) (n : Nat) (w : Ambient) : Prop := Holds ph s x.r x.l x.e x.ds x.v n w

/-- The address of a cycle, from the parts after step 3. -/
def View.addr (x : View) (c : Cycle) : Word := addrOut c.addr x.r x.l ((engVector x.e).getD 0#16)

/-- The parts after step 3, where no branch is evaluated. -/
def View.capture (x : View) : View :=
  ⟨capRegs x.e.prevTag x.e.prevRw x.v x.l x.r, capLatch x.e.prevTag x.e.prevRw x.v x.l, x.e, x.ds, x.v⟩

/-- The parts after the address of a cycle is driven. -/
def View.address (x : View) (c : Cycle) : View := ⟨addrRegs c.addr x.r, addrLatch c.addr x.r x.l, x.e, x.ds, x.v⟩

/-- The parts after step 6 and 7 and the device edge, from the parts `x` after the address is driven at `a`. -/
def View.finish (x : View) (c : Cycle) (a : Word) : View :=
  ⟨dataRegs c x.e x.r x.l, dataLatch c x.e x.r x.l,
    advEng { x.e with prevTag := c.data, prevRw := c.rw, extra := x.e.extra + penaltyOf c x.e (dataLatch c x.e x.r x.l) },
    if c.rw = .write then takeAll x.ds a (outByte c x.e x.r x.l x.v) else x.ds,
    if c.rw = .write then outByte c x.e x.r x.l x.v else readAll x.ds a⟩

/-- The parts after steps 6 and 7 and the device edge. -/
def View.drive (x : View) (c : Cycle) : View := (x.address c).finish c (x.addr c)

/-- The parts after one cycle inside a list. -/
def View.mid (x : View) (c : Cycle) : View := x.capture.drive c

variable {ph : Bool} {s : State} {x : View} {n : Nat} {w : Ambient}

/-- Steps 6 and 7 and the device edge. -/
theorem HoldsV.drive (h : HoldsV ph s x n w) (hs : Solid x.ds) {c : Cycle} (hc : (cyclesOf x.e.list)[x.e.idx]? = some c)
    (hh : c.data ≠ .halt) (hv : (c.addr = .vecLo ∨ c.addr = .vecHi) → engVector x.e ≠ none)
    (hw : x.e.list = .wai → x.e.idx = 2 → Passes w)
    (hi : x.e.instr = .instr .wai → c.data = .internal → w.wai ≠ .refuse) :
    ∃ t, s.runCycle = .next t ∧ HoldsV true t.clockRises (x.drive c) n w ∧ t.clockRises.bp.addr.value = x.addr c ∧
      t.clockRises.bp.rwb.level = (c.rw == .read) := by
  obtain ⟨h1, ha, hrw⟩ := Holds.drive h c hh
  have h2 := h1.advance hw
  refine ⟨_, Holds.runCycle h hc hv hi, ?_⟩
  have ha' : (s.drive c).advance.count.bp.addr.value = x.addr c := by rw [advance_count_bp, ha]; rfl
  cases hd : c.rw with
  | read =>
    have hr : (s.drive c).advance.count.bp.rwb.level = true := by rw [advance_count_bp, hrw, hd]; rfl
    have h3 := h2.riseRead hs hr
    rw [ha'] at h3
    refine ⟨?_, h3.2.1, h3.2.2⟩
    simpa [HoldsV, View.drive, View.finish, View.address, hd] using h3.1
  | write =>
    have hr : (s.drive c).advance.count.bp.rwb.level = false := by rw [advance_count_bp, hrw, hd]; rfl
    have h3 := h2.riseWrite hr
    have h4 : (s.drive c).advance.count.clockRises.bp.addr = (s.drive c).advance.count.bp.addr ∧
        (s.drive c).advance.count.clockRises.bp.rwb = (s.drive c).advance.count.bp.rwb := by
      simp [State.clockRises, State.deviceEdge, hr]
    rw [ha'] at h3
    refine ⟨?_, by rw [h4.1, ha'], by rw [h4.2, hr]; rfl⟩
    simpa [HoldsV, View.drive, View.finish, View.address, hd] using h3

/-! ### Runs -/

/-- `k` cycles lead from `s` to `u` and the run does not pause on the way. -/
def Reaches (k : Nat) (s u : State) : Prop := ∀ fuel, runCycles (fuel + k) s = runCycles fuel u

theorem Reaches.refl (s : State) : Reaches 0 s s := fun _ => rfl

theorem Reaches.trans {j k : Nat} {s t u : State} (h1 : Reaches j s t) (h2 : Reaches k t u) : Reaches (k + j) s u := by
  intro fuel; rw [← Nat.add_assoc, h1, h2]

theorem Reaches.step {s t : State} (h : s.cycle = .next t) (hp : pauses s t = false) : Reaches 1 s t := by
  intro fuel; simp [runCycles, h, hp]

/-- A run ends where a cycle pauses it. -/
theorem runCycles_pause {s t : State} (h : s.cycle = .next t) (hp : pauses s t = true) (fuel : Nat) :
    runCycles (fuel + 1) s = .next t := by simp [runCycles, h, hp]

/-- One cycle inside a list. -/
theorem HoldsV.mid (h : HoldsV true s x n w) (hs : Solid x.ds) {c : Cycle} (hrun : x.e.stopped = false) (hx : x.e.extra = 0)
    (hp : x.e.pending = none) (hi : x.e.idx ≠ 1) (hc : (cyclesOf x.e.list)[x.e.idx]? = some c)
    (hh : c.data ≠ .halt) (hv : (c.addr = .vecLo ∨ c.addr = .vecHi) → engVector x.e ≠ none) (hw : x.e.list = .wai → Passes w)
    (hi' : x.e.instr = .instr .wai → Passes w) (hq : Calm w x.r x.e) :
    ∃ t, s.cycle = .next t ∧ HoldsV true t (x.mid c) n w ∧ t.bp.addr.value = x.capture.addr c ∧ t.bp.rwb.level = (c.rw == .read) := by
  have h0 := Holds.fall h false
  have h1 : HoldsV false (s.setPhi2 false).capture x.capture n w := h0.capture (.inl hp)
  obtain ⟨t, ht, h2⟩ := h1.drive hs hc hh hv (fun h _ => hw h) (fun h _ => (hi' h).ne)
  refine ⟨_, Holds.cycle h hq hrun hx (t := t) ?_, h2⟩
  have hsel := Holds.select_id h1 hi
  rw [hsel, Holds.deferred_id h1 (.inl hp), ht]

/-- The parts with another MODE. -/
def View.withMode (x : View) (m : Mode) : View := { x with e := { x.e with mode := m } }

/-- At the last cycle of a list MODE is cleared, whatever it was (spec R177). -/
theorem advEng_mode {e : Engine} {m : Mode} (h0 : e.idx ≠ 0) (h1 : e.idx + 1 = (cyclesOf e.list).length) :
    advEng { e with mode := m } = advEng e := by simp [advEng, h0, h1]

theorem View.mid_withMode {x : View} {c : Cycle} {m : Mode} (h0 : x.e.idx ≠ 0) (h1 : x.e.idx + 1 = (cyclesOf x.e.list).length)
    (hv : c.addr ≠ .vecLo ∧ c.addr ≠ .vecHi) : (x.withMode m).mid c = x.mid c ∧ (x.withMode m).capture.addr c = x.capture.addr c := by
  have ha : (x.withMode m).capture.addr c = x.capture.addr c := by
    simp only [View.addr, View.capture, View.withMode, addrOut]
    cases hc : c.addr <;> first | rfl | exact absurd hc hv.1 | exact absurd hc hv.2
  refine ⟨?_, ha⟩
  show ((x.withMode m).capture.address c).finish c ((x.withMode m).capture.addr c) = (x.capture.address c).finish c (x.capture.addr c)
  rw [ha]
  have h2 : ∀ k, advEng { x.e with prevTag := c.data, prevRw := c.rw, extra := k, mode := m } =
      advEng { x.e with prevTag := c.data, prevRw := c.rw, extra := k } := fun k =>
    advEng_mode (e := { x.e with prevTag := c.data, prevRw := c.rw, extra := k }) h0 h1
  have h3 := h2 (x.e.extra + penaltyOf c x.e (dataLatch c x.e (x.capture.address c).r (x.capture.address c).l))
  simp only [View.finish, View.mk.injEq]
  exact ⟨rfl, rfl, h3, rfl, rfl⟩

/-- The last cycle of a list, where an IRQ may be latched: it is cleared again in step 7 (spec R165, R177, R180). -/
theorem HoldsV.midLast (h : HoldsV true s x n w) (hs : Solid x.ds) {c : Cycle} (hrun : x.e.stopped = false) (hx : x.e.extra = 0)
    (hp : x.e.pending = none) (hi : 2 ≤ x.e.idx) (hlast : x.e.idx + 1 = (cyclesOf x.e.list).length)
    (hc : (cyclesOf x.e.list)[x.e.idx]? = some c)
    (hh : c.data ≠ .halt) (hv : c.addr ≠ .vecLo ∧ c.addr ≠ .vecHi) (hw : x.e.list = .wai → Passes w)
    (hi' : x.e.instr = .instr .wai → Passes w) :
    ∃ t, s.cycle = .next t ∧ HoldsV true t (x.mid c) n w ∧ t.bp.addr.value = x.capture.addr c ∧ t.bp.rwb.level = (c.rw == .read) := by
  have h1 : HoldsV true (s.setMode (latchMode w x.r x.e)) (x.withMode (latchMode w x.r x.e)) n w := (Holds.latched h).2
  obtain ⟨h2, h3⟩ := View.mid_withMode (x := x) (m := latchMode w x.r x.e) (by omega) hlast hv
  rw [Holds.cycle_latched h hrun hx, ← h2, ← h3]
  exact h1.mid hs hrun hx hp (by show x.e.idx ≠ 1; omega) hc hh (fun hc => absurd hc (by simp [hv.1, hv.2])) hw hi' (calm_latchMode w x.r x.e)

/-- The cycle just driven pulls P, so that the next edge captures it (spec R166). -/
def View.pulls (x : View) : Bool := x.e.prevTag == .p && x.e.prevRw == .read

/-- What masks an IRQ before these cycles masks it up to the last of them: the cycle that pulls P (`pulled`: the one before them does) is
followed by two at most, and then the last one reads no vector. -/
def keepsMask (pulled : Bool) (cs : List Cycle) : Bool :=
  match cs with
  | [] | [_] => true
  | c :: d :: cs =>
    if pulled then cs.isEmpty && d.addr != .vecLo && d.addr != .vecHi else keepsMask (c.data == .p && c.rw == .read) (d :: cs)

/-- An IRQ latched while these cycles run does not change what they leave: none is latched, or the last cycle clears it. -/
def Steady (w : Ambient) (x : View) (cs : List Cycle) : Prop :=
  w.irqb = true ∨ x.e.mode ≠ .none ∨ (flag bitI x.r.p = true ∧ keepsMask x.pulls cs = true) ∨
    ∃ c, cs = [c] ∧ c.addr ≠ .vecLo ∧ c.addr ≠ .vecHi

theorem internalRegs_i (m : Mnemonic) (r : Regs) (l : Latches) : flag bitI (internalRegs m r l).p = flag bitI r.p := by
  have hz : bitI ≠ bitZ := by decide
  have hn : bitI ≠ bitN := by decide
  have hc : bitI ≠ bitC := by decide
  cases m <;> simp only [internalRegs, flag_shifted hz hn hc, flag_setNZ hz hn, flag_setFlag_ne _ _ hz]

/-- A cycle that captures nothing into P leaves I set where it is. -/
theorem View.drive_i {x : View} {c : Cycle} (h : flag bitI x.r.p = true) : flag bitI (x.drive c).r.p = true := by
  have h1 : (addrRegs c.addr x.r).p = x.r.p := by cases c.addr <;> rfl
  show flag bitI (dataRegs c x.e (addrRegs c.addr x.r) (addrLatch c.addr x.r x.l)).p = true
  unfold dataRegs
  split
  · split
    · exact enteredStatus_i _
    · rw [h1, h]
  · split
    · rw [h1, h]
    · rw [internalRegs_i, h1, h]
  · rw [h1, h]

theorem View.mid_i {x : View} {c : Cycle} (h : flag bitI x.r.p = true) (hp : x.pulls = false) : flag bitI (x.mid c).r.p = true := by
  refine View.drive_i (x := x.capture) ?_
  show flag bitI (capRegs x.e.prevTag x.e.prevRw x.v x.l x.r).p = true
  rw [← h]
  unfold View.pulls at hp
  cases hr : x.e.prevRw <;> cases ht : x.e.prevTag <;> first | rfl | (rw [hr, ht] at hp; exact absurd hp (by decide))

/-- Where the cycles after `c` are `d :: cs`, they are steady after `c` if `c` and they were before it. -/
theorem Steady.next {w : Ambient} {x : View} {c d : Cycle} {cs : List Cycle} (h : Steady w x (c :: d :: cs))
    (hm : (x.mid c).e.mode = x.e.mode) (ht : (x.mid c).pulls = (c.data == .p && c.rw == .read)) : Steady w (x.mid c) (d :: cs) := by
  rcases h with h | h | ⟨h, hk⟩ | ⟨_, h, -⟩
  · exact .inl h
  · exact .inr (.inl (by rw [hm]; exact h))
  · refine .inr (.inr ?_)
    unfold keepsMask at hk
    cases hp : x.pulls with
    | true =>
      rw [hp] at hk
      simp only [if_true, Bool.and_eq_true, List.isEmpty_iff, bne_iff_ne, ne_eq] at hk
      exact .inr ⟨d, by rw [hk.1.1], hk.1.2, hk.2⟩
    | false =>
      rw [hp] at hk
      exact .inl ⟨View.mid_i h hp, by rw [ht]; exact hk⟩
  · cases h

/-- What the cycles of a list leave, from the parts before the first of them. -/
def View.cycles (x : View) (cs : List Cycle) : View :=
  match cs with
  | [] => x
  | c :: cs => (x.mid c).cycles cs

/-- What must hold of the cycles still to run: only the last one may schedule an extra cycle, none halts, and a vector cycle has its
vector. -/
def okCycles (l : ListName) (vector : Bool) (cs : List Cycle) : Bool :=
  match cs with
  | [] => true
  | c :: cs => c.data != .halt && (c.addr != .vecLo && c.addr != .vecHi || vector) &&
      (cs.isEmpty || !((l == .absxR || l == .absyR || l == .izyR) && c.data == .data && c.rw == .read)) && okCycles l vector cs

theorem advEng_list (e : Engine) : (advEng e).list = e.list := by unfold advEng; split <;> (try split) <;> rfl
theorem advEng_instr (e : Engine) : (advEng e).instr = e.instr := by unfold advEng; split <;> (try split) <;> rfl
theorem advEng_stopped (e : Engine) : (advEng e).stopped = e.stopped := by unfold advEng; split <;> (try split) <;> rfl
theorem advEng_prevRw (e : Engine) : (advEng e).prevRw = e.prevRw := by unfold advEng; split <;> (try split) <;> rfl
theorem advEng_extra (e : Engine) : (advEng e).extra = e.extra := by unfold advEng; split <;> (try split) <;> rfl

/-- The cycles of a list from index `k` on run one after the other. The last one left its address and direction on the bus. -/
theorem HoldsV.cycles (cs : List Cycle) (hne : cs ≠ []) {k : Nat} (hk : 2 ≤ k) (h : HoldsV true s x n w) (hs : Solid x.ds)
    (hrun : x.e.stopped = false) (hx : x.e.extra = 0) (hp : x.e.pending = none) (hidx : x.e.idx = k)
    (hcs : (cyclesOf x.e.list).drop k = cs) (hok : okCycles x.e.list (engVector x.e).isSome cs = true) (hw : x.e.list = .wai → Passes w)
    (hi : x.e.instr = .instr .wai → Passes w) (hq : Steady w x cs) :
    ∃ u, Reaches cs.length s u ∧ HoldsV true u (x.cycles cs) n w ∧ Solid (x.cycles cs).ds ∧
      ((x.cycles cs).e.prevRw = .read → u.bp.rwb.level = true ∧ readAll (x.cycles cs).ds u.bp.addr.value = (x.cycles cs).v) := by
  induction cs generalizing s x k with
  | nil => exact absurd rfl hne
  | cons c cs ih =>
    have hlt : k < (cyclesOf x.e.list).length := by
      rcases Nat.lt_or_ge k (cyclesOf x.e.list).length with h | h
      · exact h
      · rw [List.drop_eq_nil_of_le h] at hcs; exact absurd hcs (by simp)
    have hget : (cyclesOf x.e.list)[k]? = some c := by
      rw [List.getElem?_eq_getElem hlt]
      have := List.drop_eq_getElem_cons hlt
      rw [hcs] at this
      exact congrArg some (List.cons.inj this).1.symm
    have hdrop : (cyclesOf x.e.list).drop (k + 1) = cs := by
      have := List.drop_eq_getElem_cons hlt
      rw [hcs] at this
      exact (List.cons.inj this).2.symm
    simp only [okCycles, Bool.and_eq_true] at hok
    obtain ⟨⟨⟨hok1, hok2⟩, hok3⟩, hok4⟩ := hok
    have hh : c.data ≠ .halt := by simpa using hok1
    have hv : (c.addr = .vecLo ∨ c.addr = .vecHi) → engVector x.e ≠ none := by
      intro hcv hno; rw [hno] at hok2; rcases hcv with h | h <;> simp [h] at hok2
    obtain ⟨t, ht, h2, haddr, hrwb⟩ : ∃ t, s.cycle = .next t ∧ HoldsV true t (x.mid c) n w ∧ t.bp.addr.value = x.capture.addr c ∧
        t.bp.rwb.level = (c.rw == .read) := by
      have calm : Calm w x.r x.e → _ := fun hc => h.mid hs hrun hx hp (by omega) (hidx ▸ hget) hh hv hw hi hc
      rcases hq with hq | hq | ⟨hq, -⟩ | ⟨c', hc', hva⟩
      · exact calm (.inl hq)
      · exact calm (.inr (.inr hq))
      · exact calm (.inr (.inl hq))
      · cases hc'
        have hle := List.drop_eq_nil_iff.1 hdrop
        exact h.midLast hs hrun hx hp (by omega) (by omega) (hidx ▸ hget) hh hva hw hi
    have hsd : Solid (x.mid c).ds := by
      simp only [View.mid, View.drive, View.finish, View.address, View.capture]
      split
      · exact hs.takeAll _ _
      · exact hs
    have hstop : (x.mid c).e.stopped = false := by
      simp only [View.mid, View.drive, View.finish, View.address, View.capture, advEng_stopped, hrun]
    have hlist : (x.mid c).e.list = x.e.list := by
      simp only [View.mid, View.drive, View.finish, View.address, View.capture, advEng_list]
    have hinstr : (x.mid c).e.instr = x.e.instr := by
      simp only [View.mid, View.drive, View.finish, View.address, View.capture, advEng_instr]
    have hne1 : (x.mid c).e.idx ≠ 1 ∧ (x.mid c).e.idx ≠ x.e.idx := by
      simp only [View.mid, View.drive, View.finish, View.address, View.capture, advEng, hidx]
      rw [if_neg (by omega)]
      split <;> simp <;> omega
    have hpause : pauses s t = false := by
      simp only [pauses, h2.eng, h.eng, hstop]
      simp [hne1.1, hne1.2]
    have hreach := Reaches.step ht hpause
    cases cs with
    | nil =>
      refine ⟨t, hreach, h2, hsd, ?_⟩
      intro hrd
      replace hrd : c.rw = .read := by
        simpa only [View.cycles, View.mid, View.drive, View.finish, advEng_prevRw] using hrd
      refine ⟨by rw [hrwb, hrd]; rfl, ?_⟩
      rw [haddr]
      simp [View.cycles, View.mid, View.drive, View.finish, View.address, View.capture, hrd]
    | cons d cs =>
      have hk1 : k + 1 ≠ (cyclesOf x.e.list).length := by
        intro hcon
        rw [hcon, List.drop_length] at hdrop
        exact absurd hdrop (by simp)
      have hpen : penaltyOf c x.e (dataLatch c x.e (addrRegs c.addr x.capture.r) (addrLatch c.addr x.capture.r x.capture.l)) = 0 := by
        simp only [List.isEmpty_cons, Bool.false_or] at hok3
        unfold penaltyOf
        rw [if_neg]
        rintro ⟨h1, h2, h3, -⟩
        rcases h1 with h1 | h1 | h1 <;> simp [h1, h2, h3] at hok3
      have he : (x.mid c).e = { x.e with idx := k + 1, prevTag := c.data, prevRw := c.rw, cycles := x.e.cycles + 1 } := by
        simp only [View.mid, View.drive, View.finish, View.address]
        rw [show x.capture.e = x.e from rfl, hpen, hx]
        simp only [advEng, hidx]
        rw [if_neg (by omega), if_neg hk1, Nat.add_zero]
      obtain ⟨u, hu, h3, hsol, hlast⟩ := ih (by simp) (k := k + 1) (by omega) h2 hsd hstop (by rw [he]; exact hx) (by rw [he]; exact hp)
        (by rw [he]) (by rw [he]; exact hdrop) (by rw [he]; exact hok4) (by rw [hlist]; exact hw) (by rw [hinstr]; exact hi)
        (hq.next (by rw [he]) (by unfold View.pulls; rw [he]))
      refine ⟨u, ?_, h3, hsol, ?_⟩
      · have := hreach.trans hu
        simpa [Nat.add_comm] using this
      · exact hlast

/-! ### From the selection edge to the last cycle of the list -/

/-- The list of what runs. -/
def Running.list (u : Running) : ListName :=
  match u with
  | .intr => .intr
  | .instr i => i.list

/-- The parts after step 4 of a selection edge at which `u` is selected (spec R168). -/
def View.selected (x : View) (u : Running) : View :=
  { x with
    r := match u with
      | .intr => { x.r with pc := x.r.pc - 1#16 }
      | .instr _ => x.r
    e := { x.e with list := u.list, instr := u } }

/-- `u` is what the selection edge selects. -/
def Selects (x : View) (u : Running) : Prop :=
  match u with
  | .intr => x.e.mode ≠ .none
  | .instr i => x.e.mode = .none ∧ x.v = i.opcode

/-- What `u` leaves after the last cycle of its list, from the parts before its selection edge. -/
def View.run (x : View) (u : Running) : View :=
  match cyclesAfterFetch u.list with
  | [] => x
  | c :: cs => ((x.capture.selected u).drive c).cycles cs

/-- The parts of a state in which an opcode has been fetched. -/
structure View.Fetched (x : View) : Prop where
  idx : x.e.idx = 1
  tag : x.e.prevTag = .opcode
  rw : x.e.prevRw = .read
  extra : x.e.extra = 0
  pending : x.e.pending = none
  running : x.e.stopped = false

theorem cyclesOf_getElem (l : ListName) {c : Cycle} {cs : List Cycle} (h : cyclesAfterFetch l = c :: cs) :
    (cyclesOf l)[1]? = some c := by simp [cyclesOf, h]

theorem HoldsV.selectEdge (h : HoldsV ph s x n w) (hf : x.Fetched) {u : Running} (hu : Selects x u) (hlen : (cyclesOf u.list).length ≠ 1) :
    HoldsV ph s.capture.select (x.capture.selected u) n w := by
  have h1 : HoldsV ph s.capture x.capture n w := Holds.capture h (.inl hf.pending)
  cases u with
  | intr =>
    have hm : s.capture.eng.mode ≠ .none := by rw [h1.eng]; exact hu
    have h2 : s.capture.select = s.capture.beginEntry := by
      simp only [State.select, h1.eng, show x.capture.e.idx = 1 from hf.idx, if_true]
      rw [if_neg (by exact hu)]
    rw [h2]
    refine ⟨?_, h1.latch, ?_, h1.devices, h1.data, h1.draws, h1.wai, h1.script, h1.phi2, h1.rdy, h1.resb, h1.irqb⟩
    · simp [State.beginEntry, State.setPc, State.setInstr, State.setList, h1.regs, View.selected]
    · simp [State.beginEntry, State.setPc, State.setInstr, State.setList, h1.eng, View.selected, Running.list]
  | instr i =>
    have hir : x.capture.l.ir = i.opcode := by simp [View.capture, capLatch, hf.tag, hf.rw, hu.2]
    exact Holds.select h1 hf.idx hu.1 hir hlen

/-- A whole list runs, from the state in which the opcode has been fetched to the state after its last cycle. -/
theorem HoldsV.run (h : HoldsV true s x n w) (hs : Solid x.ds) (hf : x.Fetched) {u : Running} (hu : Selects x u)
    {c : Cycle} {cs : List Cycle} (hcs : cyclesAfterFetch u.list = c :: cs)
    (hok : okCycles u.list (engVector (x.capture.selected u).e).isSome (c :: cs) = true) (hw : u.list = .wai → Passes w)
    (hi : u = .instr .wai → Passes w)
    (hq : w.irqb = true ∨ x.e.mode ≠ .none ∨ flag bitI x.r.p = true ∧ keepsMask false (c :: cs) = true) :
    ∃ t, Reaches (c :: cs).length s t ∧ HoldsV true t (x.run u) n w ∧ Solid (x.run u).ds ∧
      ((x.run u).e.prevRw = .read → t.bp.rwb.level = true ∧ readAll (x.run u).ds t.bp.addr.value = (x.run u).v) := by
  have hlen : (cyclesOf u.list).length ≠ 1 := by simp [cyclesOf, hcs]
  have h0 : HoldsV false (s.setPhi2 false) x n w := Holds.fall h false
  have h1 := h0.selectEdge hf hu hlen
  have hok' := hok
  simp only [okCycles, Bool.and_eq_true] at hok'
  obtain ⟨⟨⟨hok1, hok2⟩, hok3⟩, hok4⟩ := hok'
  have hh : c.data ≠ .halt := by simpa using hok1
  have hv : (c.addr = .vecLo ∨ c.addr = .vecHi) → engVector (x.capture.selected u).e ≠ none := by
    intro hcv hno; rw [hno] at hok2; rcases hcv with h | h <;> simp [h] at hok2
  have hidx : (x.capture.selected u).e.idx = 1 := hf.idx
  have hsel : Solid (x.capture.selected u).ds := hs
  obtain ⟨t, ht, h2, haddr, hrwb⟩ := h1.drive hsel (c := c) (by rw [hidx]; exact cyclesOf_getElem u.list hcs) hh hv
    (fun h _ => hw h) (fun h _ => (hi h).ne)
  have hd : (s.setPhi2 false).capture.select.deferred = (s.setPhi2 false).capture.select :=
    Holds.deferred_id h1 (.inl hf.pending)
  have hcyc : s.cycle = .next t.clockRises := Holds.cycle h
    (by rcases hq with hq | hq | hq; exact .inl hq; exact .inr (.inr hq); exact .inr (.inl hq.1)) hf.running hf.extra (by rw [hd]; exact ht)
  generalize hy : (x.capture.selected u).drive c = y at h2
  have hrun : x.run u = y.cycles cs := by simp only [View.run, hcs, hy]
  have hyl : y.e.list = u.list := by
    rw [← hy]; simp only [View.drive, View.finish, View.address, advEng_list]; rfl
  have hyi : y.e.instr = u := by
    rw [← hy]; simp only [View.drive, View.finish, View.address, advEng_instr]; rfl
  have hys : y.e.stopped = false := by
    rw [← hy]; simp only [View.drive, View.finish, View.address, advEng_stopped]; exact hf.running
  have hyd : Solid y.ds := by
    rw [← hy]; simp only [View.drive, View.finish, View.address]
    split
    · exact hsel.takeAll _ _
    · exact hsel
  have hyidx : y.e.idx ≠ 1 := by
    rw [← hy]; simp only [View.drive, View.finish, View.address, advEng, hidx]
    simp only [Nat.one_ne_zero, if_false]
    split <;> simp
  have hpause : pauses s t.clockRises = false := by
    simp only [pauses, h2.eng, h.eng, hys, hf.idx]
    simp [hyidx]
  have hreach := Reaches.step hcyc hpause
  cases cs with
  | nil =>
    refine ⟨_, hreach, by rw [hrun]; exact h2, by rw [hrun]; exact hyd, ?_⟩
    intro hrd
    rw [hrun] at hrd
    replace hrd : c.rw = .read := by
      have : y.e.prevRw = .read := hrd
      rw [← hy] at this
      simpa only [View.drive, View.finish, advEng_prevRw] using this
    refine ⟨by rw [hrwb, hrd]; rfl, ?_⟩
    rw [haddr, hrun]
    show readAll y.ds _ = y.v
    rw [← hy]; simp [View.drive, View.finish, View.address, View.addr, hrd]
  | cons d cs =>
    have hlen2 : (cyclesOf u.list).length = cs.length + 3 := by simp [cyclesOf, hcs]
    have hpen : penaltyOf c (x.capture.selected u).e (dataLatch c (x.capture.selected u).e
        (addrRegs c.addr (x.capture.selected u).r) (addrLatch c.addr (x.capture.selected u).r (x.capture.selected u).l)) = 0 := by
      simp only [List.isEmpty_cons, Bool.false_or] at hok3
      unfold penaltyOf
      rw [if_neg]
      rintro ⟨h1, h2, h3, -⟩
      have : (x.capture.selected u).e.list = u.list := rfl
      rw [this] at h1
      rcases h1 with h1 | h1 | h1 <;> simp [h1, h2, h3] at hok3
    have hye : y.e = { (x.capture.selected u).e with idx := 2, prevTag := c.data, prevRw := c.rw, cycles := x.e.cycles + 1 } := by
      rw [← hy]
      simp only [View.drive, View.finish, View.address]
      rw [hpen]
      simp only [advEng, hidx]
      rw [if_neg (by omega), if_neg (by
        have : (x.capture.selected u).e.list = u.list := rfl
        rw [this]; omega)]
      rfl
    have hdrop : (cyclesOf y.e.list).drop 2 = d :: cs := by rw [hyl]; simp [cyclesOf, hcs]
    have hvec : engVector y.e = engVector (x.capture.selected u).e := by rw [hye]; rfl
    obtain ⟨t', hu', h3, hsol, hlast⟩ := HoldsV.cycles (d :: cs) (by simp) (k := 2) (by omega) h2 hyd hys
      (by rw [hye]; exact hf.extra) (by rw [hye]; exact hf.pending) (by rw [hye]) hdrop (by rw [hyl, hvec]; exact hok4)
      (by rw [hyl]; exact hw) (by rw [hyi]; exact hi) (by
        rcases hq with hq | hq | ⟨hq, hk⟩
        · exact .inl hq
        · exact .inr (.inl (by rw [hye]; exact hq))
        · refine .inr (.inr (.inl ⟨?_, ?_⟩))
          · rw [← hy]; refine View.drive_i ?_
            have hp : (x.capture.selected u).r.p = x.r.p := by
              cases u <;> simp only [View.selected, View.capture, capRegs, hf.tag, hf.rw]
            rw [hp]; exact hq
          · rw [View.pulls, hye]; exact hk)
    refine ⟨t', ?_, by rw [hrun]; exact h3, by rw [hrun]; exact hsol, ?_⟩
    · have := hreach.trans hu'
      simpa [Nat.add_comm] using this
    · rw [hrun]; exact hlast

/-! ### Extra cycles -/

/-- One extra cycle after a read cycle reads the same byte again (spec R183). -/
theorem HoldsV.extra (h : HoldsV true s x n w) (hs : Solid x.ds) (hrun : x.e.stopped = false) (hx : 0 < x.e.extra)
    (hrw : s.bp.rwb.level = true) (hv : readAll x.ds s.bp.addr.value = x.v) :
    ∃ t, s.cycle = .next t ∧ HoldsV true t { x with e := { x.e with extra := x.e.extra - 1, cycles := x.e.cycles + 1 } } n w ∧
      t.bp.rwb.level = true ∧ readAll x.ds t.bp.addr.value = x.v := by
  refine ⟨_, Holds.extraCycle h hrun hx, ?_⟩
  have h1 := ((Holds.fall h false).setExtra (x.e.extra - 1)).count
  have h2 := h1.riseRead hs (by exact hrw)
  have ha : ((s.setPhi2 false).setExtra (x.e.extra - 1)).count.bp.addr.value = s.bp.addr.value := rfl
  rw [ha, hv] at h2
  exact ⟨h2.1, h2.2.2, by rw [h2.2.1, hv]⟩

end Sys2Proof.Machine
end

