-- ==== Sys2Proof/Laws/Boundary.lean ====
section
/-!
SUPPORT. The boundary edge: the last capture, the branch, the deferred effect, the fetch of the next opcode and the extra cycles after
it. With Laws/Runs.lean this gives each whole instruction: `exec_plain`, `exec_branch`, `exec_oneCycle`.
-/

namespace Sys2Proof.Machine

variable {s : State} {x : View} {n : Nat} {w : Ambient}

/-! ### Deferred effects -/

/-- A deferred effect writes registers, schedules extra cycles and uses free values, and nothing else. -/
theorem effect_frame (p : Running) (c : State) : ∃ r k m,
    p.effect c = { c with regs := r, eng := { c.eng with extra := k }, draws := m } := by
  have hdec : ∀ op, ∃ r k m, c.decimal op = { c with regs := r, eng := { c.eng with extra := k }, draws := m } := by
    intro op; unfold State.decimal; dsimp only; split
    · exact ⟨_, _, _, rfl⟩
    · exact ⟨_, _, _, rfl⟩
  cases p with
  | intr => exact ⟨c.regs, c.eng.extra, c.draws, rfl⟩
  | instr i =>
    simp only [Running.effect]
    cases i.mnemonic <;> simp only [effect] <;>
      first
        | exact ⟨c.regs, c.eng.extra, c.draws, rfl⟩
        | exact ⟨_, c.eng.extra, c.draws, rfl⟩
        | (split
           · exact ⟨_, c.eng.extra, c.draws, rfl⟩
           · exact ⟨c.regs, c.eng.extra, c.draws, rfl⟩)
        | (simp only [effectAdc]; split
           · exact hdec _
           · exact ⟨_, c.eng.extra, c.draws, rfl⟩)
        | (simp only [effectSbc]; split
           · exact hdec _
           · exact ⟨_, c.eng.extra, c.draws, rfl⟩)

/-- A deferred effect schedules at most one extra cycle. -/
theorem effect_extra (p : Running) (c : State) : (p.effect c).eng.extra ≤ c.eng.extra + 1 := by
  have hdec : ∀ op, (c.decimal op).eng.extra ≤ c.eng.extra + 1 := by
    intro op; unfold State.decimal; dsimp only; split <;> exact Nat.le_refl _
  cases p with
  | intr => exact Nat.le_succ _
  | instr i =>
    simp only [Running.effect]
    cases i.mnemonic <;> simp only [effect] <;>
      first
        | exact Nat.le_succ _
        | (split <;> exact Nat.le_succ _)
        | (simp only [effectAdc]; split
           · exact hdec _
           · exact Nat.le_succ _)
        | (simp only [effectSbc]; split
           · exact hdec _
           · exact Nat.le_succ _)

/-! ### The boundary edge -/

/-- What a boundary edge leaves, from the parts before it and the state after its deferred effect. -/
def View.boundary (x : View) (y : State) : View :=
  ⟨{ y.regs with pc := y.regs.pc + 1#16 }, x.l,
    { x.e with idx := 1, pending := none, prevTag := .opcode, prevRw := .read, extra := y.eng.extra, cycles := x.e.cycles + 1 },
    x.ds, readAll x.ds y.regs.pc⟩

/-- Steps 5 to 7 of a boundary edge, and the device edge. -/
theorem HoldsV.boundaryDrive {c : State} {ph : Bool} (h : HoldsV ph c x n w) (hs : Solid x.ds) {p : Running}
    (hp : x.e.pending = some p) (hi : x.e.idx = 0) :
    ∃ t, c.deferred.runCycle = .next t ∧ HoldsV true t.clockRises (x.boundary (p.effect c)) (p.effect c).draws w ∧
      t.clockRises.bp.rwb.level = true ∧ readAll x.ds t.clockRises.bp.addr.value = (x.boundary (p.effect c)).v := by
  obtain ⟨r, k, m, hy⟩ := effect_frame p c
  have hdef : c.deferred = (p.effect c).setPending none := by
    simp only [State.deferred, h.eng, hp, hi, if_true]
  have hz : HoldsV ph ((p.effect c).setPending none) ⟨r, x.l, { x.e with pending := none, extra := k }, x.ds, x.v⟩ m w := by
    rw [hy]
    exact ⟨rfl, h.latch, by simp [State.setPending, h.eng], h.devices, h.data, rfl, h.wai, h.script, h.phi2, h.rdy, h.resb, h.irqb⟩
  have hget : (cyclesOf x.e.list)[x.e.idx]? = some fetch := by rw [hi]; rfl
  obtain ⟨h1, ha, hrw⟩ := Holds.drive hz fetch (by decide)
  have hadv : advEng { x.e with pending := none, extra := k + 0, prevTag := fetch.data, prevRw := fetch.rw } =
      { x.e with idx := 1, pending := none, prevTag := .opcode, prevRw := .read, extra := k, cycles := x.e.cycles + 1 } := by
    simp [advEng, hi, fetch]
  have hpen : ∀ e l, penaltyOf fetch e l = 0 := by intro e l; simp [penaltyOf, fetch]
  have hrun : ((p.effect c).setPending none).runCycle = .next ((((p.effect c).setPending none).drive fetch).advance.count) := by
    unfold State.runCycle
    rw [hz.eng]
    simp only [hget]
    rw [if_neg (by simp [fetch]), if_neg (by simp [fetch])]
  have hadvance : (((p.effect c).setPending none).drive fetch).advance =
      (((p.effect c).setPending none).drive fetch).setIdx 1 := by
    simp only [State.advance, h1.eng, hi, if_true]
  refine ⟨_, by rw [hdef]; exact hrun, ?_⟩
  rw [hadvance]
  have h2 : Holds ph ((((p.effect c).setPending none).drive fetch).setIdx 1).count { r with pc := r.pc + 1#16 } x.l
      { x.e with idx := 1, pending := none, prevTag := .opcode, prevRw := .read, extra := k, cycles := x.e.cycles + 1 } x.ds x.v m w := by
    refine ⟨?_, ?_, ?_, ?_, ?_, ?_, ?_, h1.script, h1.phi2, h1.rdy, h1.resb, h1.irqb⟩
    · exact h1.regs
    · exact h1.latch
    · simp only [State.count, State.setCycles, State.setIdx, h1.eng, hpen]; rfl
    · exact h1.devices
    · exact h1.data
    · exact h1.draws
    · exact h1.wai
  have hr' : ((((p.effect c).setPending none).drive fetch).setIdx 1).count.bp.rwb.level = true := hrw
  have ha' : ((((p.effect c).setPending none).drive fetch).setIdx 1).count.bp.addr.value = r.pc := ha
  have h3 := h2.riseRead hs hr'
  rw [ha'] at h3
  have hb : x.boundary (p.effect c) = ⟨{ r with pc := r.pc + 1#16 }, x.l,
      { x.e with idx := 1, pending := none, prevTag := .opcode, prevRw := .read, extra := k, cycles := x.e.cycles + 1 },
      x.ds, readAll x.ds r.pc⟩ := by rw [hy]; rfl
  rw [hb]
  refine ⟨?_, h3.2.2, by rw [h3.2.1]⟩
  rw [show (p.effect c).draws = m by rw [hy]]
  exact h3.1

/-- No branch is evaluated for these. -/
def NoBranch (p : Running) : Prop :=
  match p with
  | .intr => True
  | .instr i => ∀ st, branchCondition i.mnemonic st = none

theorem HoldsV.captureAny {ph : Bool} (h : HoldsV ph s x n w) {p : Running} (hp : x.e.pending = some p) (hb : NoBranch p) :
    HoldsV ph s.capture x.capture n w := by
  by_cases hd : x.e.prevTag = .data ∧ x.e.prevRw = .read
  · have : s.capture = s.setD s.dataBus := by
      unfold State.capture
      rw [h.eng, hd.1, hd.2]
      simp only [State.branchEval, State.setD_eng, h.eng, hp]
      cases p with
      | intr => rfl
      | instr i => simp only [hb (s.setD s.dataBus)]
    rw [this]
    refine ⟨?_, ?_, h.eng, h.devices, h.data, h.draws, h.wai, h.script, h.phi2, h.rdy, h.resb, h.irqb⟩
    · simp [View.capture, capRegs, hd.1, hd.2, h.regs]
    · simp [View.capture, capLatch, hd.1, hd.2, State.setD, h.latch, h.data]
  · exact Holds.capture h (by
      by_cases h1 : x.e.prevTag = .data
      · right; right
        cases hrw : x.e.prevRw
        · exact absurd ⟨h1, hrw⟩ hd
        · rfl
      · exact .inr (.inl h1))

/-- The boundary edge after anything but a branch. -/
theorem HoldsV.boundary (h : HoldsV true s x n w) (hs : Solid x.ds) {p : Running} (hp : x.e.pending = some p) (hi : x.e.idx = 0)
    (hx : x.e.extra = 0) (hrun : x.e.stopped = false) (hq : Calm w x.r x.e) (hb : NoBranch p) :
    ∃ c t, HoldsV false c x.capture n w ∧ s.cycle = .next t ∧
      HoldsV true t (x.capture.boundary (p.effect c)) (p.effect c).draws w ∧
      t.bp.rwb.level = true ∧ readAll x.ds t.bp.addr.value = (x.capture.boundary (p.effect c)).v := by
  have h0 := HoldsV.captureAny (Holds.fall h false) hp hb
  obtain ⟨t, ht, h1, h2, h3⟩ := h0.boundaryDrive (x := x.capture) hs hp hi
  refine ⟨_, _, h0, Holds.cycle h hq hrun hx (t := t) ?_, h1, h2, h3⟩
  rw [Holds.select_id h0 (by rw [show x.capture.e.idx = x.e.idx from rfl, hi]; decide), ht]

/-- The boundary edge after anything but a branch, where it may latch an IRQ (spec R165). -/
theorem HoldsV.boundaryLatch (h : HoldsV true s x n w) (hs : Solid x.ds) {p : Running} (hp : x.e.pending = some p) (hi : x.e.idx = 0)
    (hx : x.e.extra = 0) (hrun : x.e.stopped = false) (hb : NoBranch p) :
    ∃ c t, HoldsV false c (x.withMode (latchMode w x.r x.e)).capture n w ∧ s.cycle = .next t ∧
      HoldsV true t ((x.withMode (latchMode w x.r x.e)).capture.boundary (p.effect c)) (p.effect c).draws w ∧
      t.bp.rwb.level = true ∧
      readAll x.ds t.bp.addr.value = ((x.withMode (latchMode w x.r x.e)).capture.boundary (p.effect c)).v := by
  have h1 : HoldsV true (s.setMode (latchMode w x.r x.e)) (x.withMode (latchMode w x.r x.e)) n w := (Holds.latched h).2
  rw [Holds.cycle_latched h hrun hx]
  exact h1.boundary hs hp hi hx hrun (calm_latchMode w x.r x.e) hb

/-! ### The extra cycles after it -/

/-- A fetched opcode whose cycle still has `k` extra cycles to come runs on to where the run pauses. -/
theorem HoldsV.settle (k : Nat) (h : HoldsV true s x n w) (hs : Solid x.ds) (hrun : x.e.stopped = false) (hk : x.e.extra = k + 1)
    (hrw : s.bp.rwb.level = true) (hv : readAll x.ds s.bp.addr.value = x.v) (hi : x.e.idx = 1) (fuel : Nat) :
    ∃ t, runCycles (fuel + (k + 1)) s = .next t ∧
      HoldsV true t { x with e := { x.e with extra := 0, cycles := x.e.cycles + (k + 1) } } n w := by
  induction k generalizing s x with
  | zero =>
    obtain ⟨t, ht, h1, -, -⟩ := h.extra hs hrun (by omega) hrw hv
    refine ⟨t, ?_, ?_⟩
    · refine runCycles_pause ht ?_ fuel
      simp [pauses, h1.eng, hi, hk]
    · simpa [hk] using h1
  | succ k ih =>
    obtain ⟨t, ht, h1, h2, h3⟩ := h.extra hs hrun (by omega) hrw hv
    have hp : pauses s t = false := by
      simp only [pauses, h1.eng, h.eng, hrun, hi, hk]
      simp
    obtain ⟨t', ht', h4⟩ := ih h1 hs hrun (by simp only [hk]; omega) h2 h3 hi
    refine ⟨t', ?_, ?_⟩
    · rw [show fuel + (k + 1 + 1) = fuel + (k + 1) + 1 by omega]
      simp only [runCycles, ht, hp]
      exact ht'
    · have : x.e.cycles + 1 + (k + 1) = x.e.cycles + (k + 1 + 1) := by omega
      simpa [this] using h4

/-- From a state whose next cycle is a boundary, the run goes on to where it pauses: the boundary edge and `k` extra cycles. -/
theorem HoldsV.end {t : State} {z : View} {m : Nat} (ht : s.cycle = .next t) (h : HoldsV true t z m w) (hs : Solid z.ds)
    (hrun : z.e.stopped = false) (hi : z.e.idx = 1) (hrw : t.bp.rwb.level = true) (hv : readAll z.ds t.bp.addr.value = z.v)
    (hprev : s.eng.idx ≠ 1) {fuel : Nat} (hf : z.e.extra < fuel) :
    ∃ u, runCycles fuel s = .next u ∧ HoldsV true u { z with e := { z.e with extra := 0, cycles := z.e.cycles + z.e.extra } } m w := by
  obtain ⟨fuel, rfl⟩ : ∃ f, fuel = f + 1 := ⟨fuel - 1, by omega⟩
  cases hk : z.e.extra with
  | zero =>
    refine ⟨t, runCycles_pause ht (by simp [pauses, h.eng, hi, hk]) fuel, ?_⟩
    have : ({ z with e := { z.e with extra := 0, cycles := z.e.cycles + 0 } } : View) = z := by
      cases z with | mk r l e ds v => cases e; simp_all
    rw [this]; exact h
  | succ k =>
    have hp : pauses s t = false := by simp [pauses, h.eng, hrun, hi, hk, Ne.symm hprev]
    obtain ⟨f, rfl⟩ : ∃ f, fuel = f + (k + 1) := ⟨fuel - (k + 1), by omega⟩
    obtain ⟨u, hu, h1⟩ := h.settle k hs hrun hk hrw hv hi f
    refine ⟨u, ?_, h1⟩
    simp only [runCycles, ht, hp]
    exact hu

/-! ### Branches -/

/-- The parts after an offset byte is captured with a branch pending (spec R167). -/
def View.branched (x : View) (taken : Bool) : View :=
  ⟨{ x.r with pc := if taken then branchTarget x.r.pc x.v else x.r.pc }, { x.l with d := x.v },
    { x.e with extra := branchExtra taken x.r.pc (branchTarget x.r.pc x.v) }, x.ds, x.v⟩

theorem HoldsV.captureBranch {ph : Bool} (h : HoldsV ph s x n w) {i : Instr} (hp : x.e.pending = some (.instr i))
    (ht : x.e.prevTag = .data) (hr : x.e.prevRw = .read) (hx : x.e.extra = 0) {taken : Bool}
    (hb : branchCondition i.mnemonic (s.setD x.v) = some taken) : HoldsV ph s.capture (x.branched taken) n w := by
  have hcap : s.capture = (s.setD x.v).branchEval x.v := by
    unfold State.capture; rw [h.eng, ht, hr, h.data]
  have hd : (s.setD x.v).latch = { x.l with d := x.v } := by simp [State.setD, h.latch]
  cases taken with
  | false =>
    have : s.capture = s.setD x.v := by
      rw [hcap]; simp only [State.branchEval, State.setD_eng, h.eng, hp, hb]
    rw [this]
    refine ⟨?_, hd, ?_, h.devices, h.data, h.draws, h.wai, h.script, h.phi2, h.rdy, h.resb, h.irqb⟩
    · simp [View.branched, h.regs]
    · simp [View.branched, branchExtra, h.eng, ← hx]
  | true =>
    have : s.capture = ((s.setD x.v).setPc (branchTarget x.r.pc x.v)).scheduleExtra
        (if hiByte (branchTarget x.r.pc x.v) = hiByte x.r.pc then 1 else 2) := by
      rw [hcap]; simp only [State.branchEval, State.setD_eng, State.setD_regs, h.eng, hp, hb, h.regs]
    rw [this]
    refine ⟨?_, hd, ?_, h.devices, h.data, h.draws, h.wai, h.script, h.phi2, h.rdy, h.resb, h.irqb⟩
    · simp [View.branched, State.scheduleExtra, State.setPc, h.regs]
    · simp [View.branched, branchExtra, State.scheduleExtra, State.setExtra, h.eng, hx]

/-- The boundary edge after a branch. -/
theorem HoldsV.boundaryBranch (h : HoldsV true s x n w) (hs : Solid x.ds) {i : Instr} (hp : x.e.pending = some (.instr i))
    (hi : x.e.idx = 0) (hx : x.e.extra = 0) (hrun : x.e.stopped = false) (htag : x.e.prevTag = .data) (hrw : x.e.prevRw = .read)
    (hq : Calm w x.r x.e) {taken : Bool}
    (hb : ∀ st : State, st.regs.p = x.r.p → st.latch.bd = x.l.bd → branchCondition i.mnemonic st = some taken)
    (he : ∀ c, Running.effect (.instr i) c = c) :
    ∃ t, s.cycle = .next t ∧
      HoldsV true t ⟨{ (x.branched taken).r with pc := (x.branched taken).r.pc + 1#16 }, (x.branched taken).l,
        { (x.branched taken).e with idx := 1, pending := none, prevTag := .opcode, prevRw := .read, cycles := x.e.cycles + 1 },
        x.ds, readAll x.ds (x.branched taken).r.pc⟩ n w ∧
      t.bp.rwb.level = true ∧ readAll x.ds t.bp.addr.value = readAll x.ds (x.branched taken).r.pc := by
  have hf : HoldsV false (s.setPhi2 false) x n w := Holds.fall h false
  have h0 := hf.captureBranch hp htag hrw hx
    (hb _ (by rw [State.setD_regs, hf.regs]) (by rw [State.setD_latch_bd, hf.latch]))
  obtain ⟨t, ht, h1, h2, h3⟩ := h0.boundaryDrive (x := x.branched taken) hs hp hi
  rw [he] at h1 h3
  have hsel : (s.setPhi2 false).capture.select = (s.setPhi2 false).capture :=
    Holds.select_id h0 (by rw [show (x.branched taken).e.idx = x.e.idx from rfl, hi]; decide)
  refine ⟨_, Holds.cycle h hq hrun hx (t := t) (by rw [hsel, ht]), ?_, h2, ?_⟩
  · have := h1
    unfold HoldsV View.boundary at this
    rw [h0.draws, h0.regs, h0.eng] at this
    exact this
  · refine h3.trans ?_; show readAll _ _ = _; rw [h0.regs]; rfl

/-! ### Whole instructions -/

/-- The parts of a state. -/
def State.view (s : State) : View := ⟨s.regs, s.latch, s.eng, s.devices, s.dataBus⟩

theorem present_fetched {i : Instr} (h : s.Interruptible) : (s.present i).view.Fetched :=
  ⟨rfl, rfl, rfl, h.extra, h.pending, h.quiet.running⟩

theorem present_holds {i : Instr} (h : s.Interruptible) :
    HoldsV true (s.present i) (s.present i).view s.draws ⟨s.waiSemantics, s.bp.irqb.level⟩ :=
  State.Quiet.holds (s := s.present i) ⟨h.quiet.noInput, h.quiet.clock, h.quiet.rdy, h.quiet.resb, h.quiet.running⟩

theorem present_selects {i : Instr} (h : s.Ready) : Selects (s.present i).view (.instr i) := ⟨h.mode, rfl⟩

/-- The lists that Laws/Runs.lean carries out: all but the one of one cycle and STP's. -/
def plainList (l : ListName) : Bool := l != .stp && l != .nop1

theorem okCycles_plain {l : ListName} (h : plainList l = true) (hl : l ≠ .intr) :
    okCycles l (l == .brk) (cyclesAfterFetch l) = true := by
  cases l <;> first | rfl | exact absurd rfl hl | exact absurd h (by decide)

theorem keepsMask_plain (l : ListName) : keepsMask false (cyclesAfterFetch l) = true := by cases l <;> rfl

theorem cyclesAfterFetch_ne {l : ListName} (h : plainList l = true) : cyclesAfterFetch l ≠ [] := by
  cases l <;> first | exact List.cons_ne_nil _ _ | exact absurd h (by decide)

theorem wai_of_list {i : Instr} (h : i.list = .wai) : i = .wai := by cases i <;> first | rfl | exact absurd h (by decide)

theorem list_ne_intr (i : Instr) : i.list ≠ .intr := by cases i <;> decide

/-- Up to the last cycle of its list, an instruction runs as `View.run` says. -/
theorem present_run {i : Instr} (h : s.Ready) (hl : plainList i.list = true)
    (hw : i = .wai → Passes ⟨s.waiSemantics, s.bp.irqb.level⟩) :
    ∃ t, Reaches (baseCycles i - 1) (s.present i) t ∧
      HoldsV true t ((s.present i).view.run (.instr i)) s.draws ⟨s.waiSemantics, s.bp.irqb.level⟩ ∧
      Solid ((s.present i).view.run (.instr i)).ds ∧
      (((s.present i).view.run (.instr i)).e.prevRw = .read → t.bp.rwb.level = true ∧
        readAll ((s.present i).view.run (.instr i)).ds t.bp.addr.value = ((s.present i).view.run (.instr i)).v) := by
  have hne := cyclesAfterFetch_ne hl
  have hok := okCycles_plain hl (list_ne_intr i)
  have hvec : (engVector ((s.present i).view.capture.selected (.instr i)).e).isSome = (i.list == .brk) := by
    have h1 : ((s.present i).view.capture.selected (.instr i)).e.list = i.list := rfl
    have h2 : ((s.present i).view.capture.selected (.instr i)).e.mode = .none := h.mode
    unfold engVector
    rw [h1, h2]
    by_cases hb : i.list = .brk <;> simp [hb, Mode.vector]
  generalize hcs : cyclesAfterFetch i.list = cs at hne hok
  cases cs with
  | nil => exact absurd rfl hne
  | cons c cs =>
    obtain ⟨t, h1, h2, h3, h4⟩ := (present_holds (i := i) h.toInterruptible).run h.solid (present_fetched h.toInterruptible)
      (present_selects h) (u := .instr i) hcs (by rw [hvec]; exact hok) (fun hc => hw (wai_of_list hc))
      (fun hc => hw (Running.instr.inj hc)) (h.masked.imp_right fun hm => .inr ⟨hm, hcs ▸ keepsMask_plain i.list⟩)
    refine ⟨t, ?_, h2, h3, h4⟩
    have : baseCycles i - 1 = (c :: cs).length := by simp [baseCycles, cyclesOf, hcs]
    rw [this]; exact h1

theorem baseCycles_le (i : Instr) : baseCycles i ≤ 8 := by cases i <;> decide

/-- The engine after the last cycle of the list of `i`, which has scheduled `e0` extra cycles. -/
def doneEng (i : Instr) (tag : DataTag) (rw : Direction) (e0 k : Nat) : Engine :=
  ⟨i.list, 0, .instr i, tag, rw, .none, e0, some (.instr i), false, k⟩

/-- From a view that a run pauses in, what the whole instruction left. -/
theorem ran_of_holds {t : State} {r : Regs} {l : Latches} {e : Engine} {ds : List Device} {m k : Nat}
    (hs : Solid ds) (h : HoldsV true t ⟨{ r with pc := r.pc + 1#16 }, l, e, ds, readAll ds r.pc⟩ m w)
    (hw : w = ⟨s.waiSemantics, s.bp.irqb.level⟩) (hi : e.idx = 1) (hx : e.extra = 0) (ht : e.prevTag = .opcode) (hrw : e.prevRw = .read)
    (hp : e.pending = none) (hr : e.stopped = false)
    (hm : e.mode = .none ∨ e.mode = .irq ∧ s.bp.irqb.level = false ∧ flag bitI r.p = false) (hk : e.cycles = s.eng.cycles + k) :
    s.Ran t r k := by
  subst hw
  have hsd : Solid t.devices := by rw [h.devices]; exact hs
  refine ⟨h.regs, ?_, ?_, ?_, ⟨⟨h.script, h.phi2, h.rdy, h.resb, ?_⟩, hsd, ?_, ?_⟩, ?_, h.irqb, h.wai⟩
  · simp [State.fetched, h.eng, hi, hx, ht, hrw]
  · rw [h.data, peek_solid hsd, h.devices]
  · rw [h.eng, hk]
  · rw [h.eng, hr]
  · rw [h.eng, hx]
  · rw [h.eng, hp]
  · rw [h.eng]
    refine hm.imp_right fun ⟨h1, h2, h3⟩ => ⟨h1, ?_⟩
    simp [State.Masked, h.irqb, h2, h.regs, h3]

/-- After the last cycle of a list: its extra cycle, if it has scheduled one, has run. -/
theorem HoldsV.spend {u : State} {r : Regs} {l : Latches} {i : Instr} {tag : DataTag} {rw : Direction} {e0 k : Nat}
    {ds : List Device} {v : Byte} (h : HoldsV true u ⟨r, l, doneEng i tag rw e0 k, ds, v⟩ n w) (hs : Solid ds) (he : e0 ≤ 1)
    (hread : rw = .read → u.bp.rwb.level = true ∧ readAll ds u.bp.addr.value = v) (hrw : e0 = 0 ∨ rw = .read) :
    ∃ t, Reaches e0 u t ∧ HoldsV true t ⟨r, l, doneEng i tag rw 0 (k + e0), ds, v⟩ n w := by
  rcases Nat.le_one_iff_eq_zero_or_eq_one.1 he with rfl | rfl
  · exact ⟨u, Reaches.refl u, h⟩
  · have hrd : rw = .read := by rcases hrw with h | h; exact absurd h (by decide); exact h
    obtain ⟨t, ht, h1, -, -⟩ := h.extra hs rfl Nat.one_pos (hread hrd).1 (hread hrd).2
    refine ⟨t, Reaches.step ht ?_, h1⟩
    simp [pauses, h1.eng, h.eng, doneEng]

/-- A whole instruction that is no branch and takes more than one cycle: where its list leaves the registers `r`, the latches `l` and
the byte `v` on DATA, the deferred effect runs on a state `c` into which that byte has been captured. -/
theorem exec_plain {i : Instr} (h : s.Ready) (hl : plainList i.list = true) (hnb : NoBranch (.instr i))
    {r : Regs} {l : Latches} {tag : DataTag} {rw : Direction} {e0 : Nat} {ds : List Device} {v : Byte}
    (hrun : (s.present i).view.run (.instr i) = ⟨r, l, doneEng i tag rw e0 (s.eng.cycles + (baseCycles i - 1)), ds, v⟩)
    (he : e0 ≤ 1) (hrw : e0 = 0 ∨ rw = .read) (hq : s.bp.irqb.level = true ∨ flag bitI r.p = true ∨
      (∀ c, effect i.mnemonic i.list c = c) ∧ (capRegs tag rw v l r).p = r.p)
    (hw : i = .wai → Passes ⟨s.waiSemantics, s.bp.irqb.level⟩) :
    ∃ c t, c.regs = capRegs tag rw v l r ∧ c.latch = capLatch tag rw v l ∧ c.eng.extra = 0 ∧ c.draws = s.draws ∧
      exec i s = .next t ∧
      s.Ran t (effect i.mnemonic i.list c).regs (baseCycles i + e0 + (effect i.mnemonic i.list c).eng.extra) ∧
      t.devices = ds ∧ t.draws = (effect i.mnemonic i.list c).draws := by
  obtain ⟨u, hu, h1, h2, h3⟩ := present_run h hl hw
  rw [hrun] at h1 h2 h3
  obtain ⟨u', hu', h4⟩ := HoldsV.spend h1 h2 he h3 hrw
  have hb := HoldsV.boundaryLatch h4 h2 (p := .instr i) rfl rfl rfl rfl hnb
  obtain ⟨c, t, hc, ht, h5, h6, h7⟩ := hb
  have hex : (effect i.mnemonic i.list c).eng.extra ≤ 1 := by
    have := effect_extra (.instr i) c
    rw [hc.eng] at this
    exact this
  have hbase := baseCycles_le i
  have hbase1 : 1 ≤ baseCycles i := by simp [baseCycles, cyclesOf]
  obtain ⟨t', ht', h8⟩ := HoldsV.end ht h5 h2 rfl rfl h6 h7 (by rw [h4.eng]; exact Nat.zero_ne_one)
    (fuel := 12 - (baseCycles i - 1) - e0) (by
      show (effect i.mnemonic i.list c).eng.extra < _
      omega)
  refine ⟨c, t', hc.regs, hc.latch, by rw [hc.eng]; rfl, hc.draws, ?_, ?_, h8.devices, h8.draws⟩
  · rw [exec_eq, runInstr, resume, runFuel, show (s.present i).eng.extra = 0 from h.extra]
    have h12 := (hu.trans hu') (12 - (baseCycles i - 1) - e0)
    rw [show 12 - (baseCycles i - 1) - e0 + (e0 + (baseCycles i - 1)) = 0 + 12 by omega] at h12
    rw [h12, ht']
  · refine ran_of_holds h2 (r := (effect i.mnemonic i.list c).regs) h8 rfl rfl rfl rfl rfl rfl rfl ?_ ?_
    · rcases latchMode_cases ⟨s.waiSemantics, s.bp.irqb.level⟩ r (doneEng i tag rw 0 (s.eng.cycles + (baseCycles i - 1) + e0)) with
        hm | ⟨hm, hm1, hm2⟩
      · exact .inl hm
      · refine .inr ⟨hm, hm1, ?_⟩
        rcases hq with hq | hq | ⟨hq, hcap⟩
        · exact absurd (hq.symm.trans hm1) (by decide)
        · exact absurd (hq.symm.trans hm2) (by decide)
        · rw [hq, hc.regs]; exact (congrArg (flag bitI) hcap).trans hm2
    show s.eng.cycles + (baseCycles i - 1) + e0 + 1 + (effect i.mnemonic i.list c).eng.extra = _
    omega

/-- A whole branch: where its list leaves the registers `r`, the latches `l` and the offset byte `v` on DATA. -/
theorem exec_branch {i : Instr} (h : s.Ready) (hl : plainList i.list = true) {r : Regs} {l : Latches} {ds : List Device} {v : Byte}
    (hrun : (s.present i).view.run (.instr i) = ⟨r, l, doneEng i .data .read 0 (s.eng.cycles + (baseCycles i - 1)), ds, v⟩)
    {taken : Bool} (hb : ∀ st : State, st.regs.p = r.p → st.latch.bd = l.bd → branchCondition i.mnemonic st = some taken)
    (he : ∀ c, effect i.mnemonic i.list c = c) (hq : s.bp.irqb.level = true ∨ flag bitI r.p = true)
    (hw : i = .wai → Passes ⟨s.waiSemantics, s.bp.irqb.level⟩) :
    ∃ t, exec i s = .next t ∧
      s.Ran t { r with pc := if taken then branchTarget r.pc v else r.pc }
        (baseCycles i + branchExtra taken r.pc (branchTarget r.pc v)) ∧
      t.devices = ds ∧ t.draws = s.draws := by
  obtain ⟨u, hu, h1, h2, h3⟩ := present_run h hl hw
  rw [hrun] at h1 h2 h3
  obtain ⟨t, ht, h5, h6, h7⟩ := HoldsV.boundaryBranch h1 h2 (i := i) rfl rfl rfl rfl rfl rfl (hq.imp_right .inl) hb he
  have hbase := baseCycles_le i
  have hbase1 : 1 ≤ baseCycles i := by simp [baseCycles, cyclesOf]
  have hex : branchExtra taken r.pc (branchTarget r.pc v) ≤ 2 := by
    unfold branchExtra; split <;> (try split) <;> omega
  obtain ⟨t', ht', h8⟩ := HoldsV.end ht h5 h2 rfl rfl h6 h7 (by rw [h1.eng]; exact Nat.zero_ne_one)
    (fuel := 12 - (baseCycles i - 1)) (by
      show branchExtra taken r.pc (branchTarget r.pc v) < _
      omega)
  refine ⟨t', ?_, ?_, h8.devices, h8.draws⟩
  · rw [exec_eq, runInstr, resume, runFuel, show (s.present i).eng.extra = 0 from h.extra]
    have h12 := hu (12 - (baseCycles i - 1))
    rw [show 12 - (baseCycles i - 1) + (baseCycles i - 1) = 0 + 12 by omega] at h12
    rw [h12, ht']
  · refine ran_of_holds h2 (r := { r with pc := if taken then branchTarget r.pc v else r.pc }) h8 rfl rfl rfl rfl rfl rfl rfl (.inl rfl) ?_
    show s.eng.cycles + (baseCycles i - 1) + 1 + branchExtra taken r.pc (branchTarget r.pc v) = _
    omega

end Sys2Proof.Machine
end

