-- ==== Sys2Proof/Laws/Lists.lean ====
section
/-!
SUPPORT. What each list leaves after its last cycle, said in the operands and the memory of the state in which the opcode was fetched.
These are the premises of `exec_plain` and `exec_branch`.
-/

set_option linter.unusedSimpArgs false

namespace Sys2Proof.Machine

variable {s : State} {i : Instr}

/-- The parts of a ready state in which the opcode of `i` has been fetched. -/
def State.fetchedView (s : State) (i : Instr) : View :=
  ⟨s.regs, s.latch, ⟨s.eng.list, 1, s.eng.instr, .opcode, .read, .none, 0, none, false, s.eng.cycles⟩, s.devices, i.opcode⟩

theorem present_view (h : s.Ready) : (s.present i).view = s.fetchedView i := by
  have h1 := h.mode
  have h2 := h.extra
  have h3 := h.pending
  have h4 := h.quiet.running
  show (⟨s.regs, s.latch, { s.eng with idx := 1, prevTag := .opcode, prevRw := .read }, s.devices, i.opcode⟩ : View) = _
  unfold State.fetchedView
  cases hs : s.eng
  simp_all

/-- The lists that read an operand into D (spec R111 to R123). -/
def readList (l : ListName) : Bool :=
  l == .imm || l == .zpR || l == .zpxR || l == .zpyR || l == .absR || l == .absxR || l == .absyR || l == .izxR || l == .izyR ||
    l == .izpR

/-- The lists that store a register (spec R112 to R123). -/
def storeList (l : ListName) : Bool :=
  l == .zpW || l == .zpxW || l == .zpyW || l == .absW || l == .absxW || l == .absyW || l == .izxW || l == .izyW || l == .izpW

/-- The read-modify-write lists (spec R113, R115, R117, R120). -/
def rmwList (l : ListName) : Bool := l == .zpRmw || l == .zpxRmw || l == .absRmw || l == .absxRmw

/-- The lists that only read and drop what they read (spec R110, R130). -/
def idleList (l : ListName) : Bool :=
  l == .imp || l == .nopImm || l == .nopZp || l == .nopZpx || l == .nopAbs || l == .nop5c

/-- The byte a storing mnemonic stores (spec R174). -/
def storedByte (m : Mnemonic) (r : Regs) : Byte :=
  match m with
  | .sta | .pha => r.a
  | .stx | .phx => r.x
  | .sty | .phy => r.y
  | _ => 0x00#8

theorem run_read (h : s.Ready) (hl : readList i.list = true) : ∃ a l, s.effAddr i.list = some a ∧
    (s.present i).view.run (.instr i) = ⟨{ s.regs with pc := s.nextPc i }, l,
      doneEng i .data .read (s.pageCrossed i.list).toNat (s.eng.cycles + (baseCycles i - 1)), s.devices, s.peek a⟩ := by
  rw [present_view h]
  simp only [readList, Bool.or_eq_true, beq_iff_eq, or_assoc] at hl
  rcases hl with hl | hl | hl | hl | hl | hl | hl | hl | hl | hl <;>
    refine ⟨_, ((s.fetchedView i).run (.instr i)).l, by rw [hl]; rfl, ?_⟩ <;>
    simp [State.fetchedView, View.run, Running.list, hl, cyclesAfterFetch, View.cycles, View.mid, View.drive, View.finish, View.address,
      View.addr, View.capture, View.selected, advEng, capRegs, capLatch, addrRegs, addrLatch, addrOut, dataRegs, dataLatch, penaltyOf, rd,
      cyclesOf, doneEng, baseCycles, State.nextPc, Instr.operandCount, ListName.operandCount, State.pageCrossed, State.absOperand,
      State.operand1, State.operand2, State.zpPointer, peek_solid h.solid, BitVec.add_assoc, Nat.add_assoc, toNat_bne]

theorem run_idle (h : s.Ready) (hl : idleList i.list = true) : ∃ l v,
    (s.present i).view.run (.instr i) = ⟨{ s.regs with pc := s.nextPc i }, l,
      doneEng i .null .read 0 (s.eng.cycles + (baseCycles i - 1)), s.devices, v⟩ := by
  rw [present_view h]
  simp only [idleList, Bool.or_eq_true, beq_iff_eq, or_assoc] at hl
  rcases hl with hl | hl | hl | hl | hl | hl <;>
    refine ⟨((s.fetchedView i).run (.instr i)).l, ((s.fetchedView i).run (.instr i)).v, ?_⟩ <;>
    simp [State.fetchedView, View.run, Running.list, hl, cyclesAfterFetch, View.cycles, View.mid, View.drive, View.finish, View.address,
      View.addr, View.capture, View.selected, advEng, capRegs, capLatch, addrRegs, addrLatch, addrOut, dataRegs, dataLatch, penaltyOf, rd,
      cyclesOf, doneEng, baseCycles, State.nextPc, Instr.operandCount, ListName.operandCount, State.pageCrossed, State.absOperand,
      State.operand1, State.operand2, State.zpPointer, peek_solid h.solid, BitVec.add_assoc, Nat.add_assoc]

theorem run_store (h : s.Ready) (hl : storeList i.list = true) (hm : i.mnemonic = .sta ∨ i.mnemonic = .stx ∨ i.mnemonic = .sty ∨
    i.mnemonic = .stz) : ∃ a l, s.effAddr i.list = some a ∧
    (s.present i).view.run (.instr i) = ⟨{ s.regs with pc := s.nextPc i }, l,
      doneEng i .data .write 0 (s.eng.cycles + (baseCycles i - 1)), takeAll s.devices a (storedByte i.mnemonic s.regs),
      storedByte i.mnemonic s.regs⟩ := by
  rw [present_view h]
  simp only [storeList, Bool.or_eq_true, beq_iff_eq, or_assoc] at hl
  rcases hl with hl | hl | hl | hl | hl | hl | hl | hl | hl <;>
    refine ⟨_, ((s.fetchedView i).run (.instr i)).l, by rw [hl]; rfl, ?_⟩ <;>
    rcases hm with hm | hm | hm | hm <;>
    simp [State.fetchedView, View.run, Running.list, hl, cyclesAfterFetch, View.cycles, View.mid, View.drive, View.finish, View.address,
      View.addr, View.capture, View.selected, advEng, capRegs, capLatch, addrRegs, addrLatch, addrOut, dataRegs, dataLatch, penaltyOf, rd,
      cyclesOf, doneEng, baseCycles, State.nextPc, Instr.operandCount, ListName.operandCount, State.pageCrossed, State.absOperand,
      State.operand1, State.operand2, State.zpPointer, peek_solid h.solid, BitVec.add_assoc, Nat.add_assoc, hm, wr, outByte, storedByte]

/-- What the internal operation of a read-modify-write mnemonic makes of the memory byte `m` (spec R261 to R266, R271 to R274). -/
def modified (mn : Mnemonic) (r : Regs) (m : Byte) : Byte :=
  match mn with
  | .asl => (shiftLeft m).1
  | .lsr => (shiftRight m).1
  | .rol => (rotateLeft m (flag bitC r.p)).1
  | .ror => (rotateRight m (flag bitC r.p)).1
  | .inc => m + 1#8
  | .dec => m - 1#8
  | .tsb => m ||| r.a
  | .trb => m &&& ~~~r.a
  | .rmb b => clearBit b m
  | .smb b => setBit b m
  | _ => m

/-- The status after the internal operation of a read-modify-write mnemonic on the memory byte `m`. -/
def modifiedStatus (mn : Mnemonic) (r : Regs) (m : Byte) : Byte :=
  match mn with
  | .asl => shifted (shiftLeft m) r.p
  | .lsr => shifted (shiftRight m) r.p
  | .rol => shifted (rotateLeft m (flag bitC r.p)) r.p
  | .ror => shifted (rotateRight m (flag bitC r.p)) r.p
  | .inc => setNZ (m + 1#8) r.p
  | .dec => setNZ (m - 1#8) r.p
  | .tsb | .trb => setFlag bitZ (r.a &&& m == 0#8) r.p
  | _ => r.p

/-- The mnemonics whose memory forms are read-modify-write. -/
def rmwMnemonic (mn : Mnemonic) : Bool :=
  match mn with
  | .asl | .lsr | .rol | .ror | .inc | .dec | .tsb | .trb | .rmb _ | .smb _ => true
  | _ => false

theorem internalLatch_d (mn : Mnemonic) (h : rmwMnemonic mn = true) (r : Regs) (l : Latches) :
    internalLatch mn r l = { l with d := modified mn r l.d } := by cases mn <;> first | rfl | exact absurd h (by simp [rmwMnemonic])

theorem internalRegs_p (mn : Mnemonic) (r : Regs) (l : Latches) :
    internalRegs mn r l = { r with p := modifiedStatus mn r l.d } := by cases mn <;> rfl

/-- A read-modify-write leaves I. -/
theorem modifiedStatus_i (mn : Mnemonic) (r : Regs) (m : Byte) : flag bitI (modifiedStatus mn r m) = flag bitI r.p := by
  have h := internalRegs_i mn r ⟨0#8, m, 0#8, 0#8, 0#8, 0#8, 0#8, 0#8, 0#8, false⟩
  rwa [internalRegs_p] at h

theorem modified_pc (mn : Mnemonic) (r : Regs) (m : Byte) (pc : Word) : modified mn { r with pc := pc } m = modified mn r m := by
  cases mn <;> rfl

theorem modifiedStatus_pc (mn : Mnemonic) (r : Regs) (m : Byte) (pc : Word) :
    modifiedStatus mn { r with pc := pc } m = modifiedStatus mn r m := by cases mn <;> rfl

theorem outByte_rmw {c : Cycle} (hc : c.data = .data) {e : Engine} (hi : e.instr = .instr i) (hm : rmwMnemonic i.mnemonic = true)
    (r : Regs) (l : Latches) (v : Byte) : outByte c e r l v = l.d := by
  unfold outByte
  rw [hc, hi]
  simp only
  cases hn : i.mnemonic <;> simp [hn, rmwMnemonic] at hm ⊢

theorem run_rmw (h : s.Ready) (hl : rmwList i.list = true) (hm : rmwMnemonic i.mnemonic = true) : ∃ a l, s.effAddr i.list = some a ∧
    (s.present i).view.run (.instr i) = ⟨{ s.regs with pc := s.nextPc i, p := modifiedStatus i.mnemonic s.regs (s.peek a) }, l,
      doneEng i .data .write 0 (s.eng.cycles + (baseCycles i - 1)), takeAll s.devices a (modified i.mnemonic s.regs (s.peek a)),
      modified i.mnemonic s.regs (s.peek a)⟩ := by
  rw [present_view h]
  simp only [rmwList, Bool.or_eq_true, beq_iff_eq, or_assoc] at hl
  rcases hl with hl | hl | hl | hl <;>
    refine ⟨_, ((s.fetchedView i).run (.instr i)).l, by rw [hl]; rfl, ?_⟩ <;>
    simp [State.fetchedView, View.run, Running.list, hl, cyclesAfterFetch, View.cycles, View.mid, View.drive, View.finish, View.address,
      View.addr, View.capture, View.selected, advEng, capRegs, capLatch, addrRegs, addrLatch, addrOut, dataRegs, dataLatch, penaltyOf, rd,
      cyclesOf, doneEng, baseCycles, State.nextPc, Instr.operandCount, ListName.operandCount, State.pageCrossed, State.absOperand,
      State.operand1, State.operand2, State.zpPointer, peek_solid h.solid, BitVec.add_assoc, Nat.add_assoc, rdLocked,
      wrLocked, outByte_rmw, hm, internalLatch_d _ hm, internalRegs_p, modified_pc, modifiedStatus_pc]

/-! ### Lengths -/

/-- The `PC_INC` cycles of a list, counting the fetch, are the bytes of its format, but for JMP_ABS and JSR, which read their last byte at PC
without an increment (spec R100, R125, R126, R138; log entry 18). -/
theorem pcInc_cycles (i : Instr) : (cyclesOf i.list).countP (fun c => decide (c.addr = .pcInc)) =
    if i.list = .jmpAbs ∨ i.list = .jsr then i.length - 1 else i.length := by
  cases i <;> rfl

end Sys2Proof.Machine
end

