-- ==== Sys2Proof/Laws/Flow.lean ====
section
/-!
SUPPORT. What the lists of control flow and of the stack leave after their last cycle: branches, jumps, subroutine calls and returns,
BRK and interrupt entry, pushes and pulls, WAI.
-/

set_option linter.unusedSimpArgs false

namespace Sys2Proof.Machine

variable {s : State} {i : Instr}

theorem run_wai (h : s.Ready) (hl : i.list = .wai) (hm : i.mnemonic = .wai) : ∃ l v,
    (s.present i).view.run (.instr i) = ⟨s.regs, l, doneEng i .internal .read 0 (s.eng.cycles + 2), s.devices, v⟩ := by
  rw [present_view h]
  refine ⟨((s.fetchedView i).run (.instr i)).l, ((s.fetchedView i).run (.instr i)).v, ?_⟩
  simp [State.fetchedView, View.run, Running.list, hl, hm, cyclesAfterFetch, View.cycles, View.mid, View.drive, View.finish, View.address,
    View.addr, View.capture, View.selected, advEng, capRegs, capLatch, addrRegs, addrLatch, addrOut, dataRegs, dataLatch, penaltyOf, rd,
    cyclesOf, doneEng, internalRegs, internalLatch]

/-! ### Branches -/

theorem run_rel (h : s.Ready) (hl : i.list = .rel) : ∃ l,
    (s.present i).view.run (.instr i) = ⟨{ s.regs with pc := s.nextPc i }, l,
      doneEng i .data .read 0 (s.eng.cycles + (baseCycles i - 1)), s.devices, s.operand1⟩ := by
  rw [present_view h]
  refine ⟨((s.fetchedView i).run (.instr i)).l, ?_⟩
  simp [State.fetchedView, View.run, Running.list, hl, cyclesAfterFetch, View.cycles, View.mid, View.drive, View.finish, View.address,
    View.addr, View.capture, View.selected, advEng, capRegs, capLatch, addrRegs, addrLatch, addrOut, dataRegs, dataLatch, penaltyOf, rd,
    cyclesOf, doneEng, baseCycles, State.nextPc, Instr.operandCount, ListName.operandCount, State.operand1, peek_solid h.solid]

/-- The bit that BBRb and BBSb test, as the condition of their branch (spec R300, R301). -/
def bitTaken (m : Mnemonic) (v : Byte) : Bool :=
  match m with
  | .bbr b => !v.getLsbD b.val
  | .bbs b => v.getLsbD b.val
  | _ => false

theorem run_zpRel (h : s.Ready) (hl : i.list = .zpRel) (hm : ∃ b, i.mnemonic = .bbr b ∨ i.mnemonic = .bbs b) : ∃ l,
    l.bd = bitTaken i.mnemonic (s.peek (zpAddr s.operand1)) ∧
    (s.present i).view.run (.instr i) = ⟨{ s.regs with pc := s.nextPc i }, l,
      doneEng i .data .read 0 (s.eng.cycles + (baseCycles i - 1)), s.devices, s.operand2⟩ := by
  rw [present_view h]
  obtain ⟨b, hm | hm⟩ := hm <;>
    refine ⟨((s.fetchedView i).run (.instr i)).l, ?_, ?_⟩ <;>
    simp [State.fetchedView, View.run, Running.list, hl, cyclesAfterFetch, View.cycles, View.mid, View.drive, View.finish, View.address,
      View.addr, View.capture, View.selected, advEng, capRegs, capLatch, addrRegs, addrLatch, addrOut, dataRegs, dataLatch, penaltyOf, rd,
      cyclesOf, doneEng, baseCycles, State.nextPc, Instr.operandCount, ListName.operandCount, State.operand1, State.operand2,
      peek_solid h.solid, hm, internalLatch, internalRegs, bitTaken, BitVec.add_assoc]

/-! ### Jumps, calls and returns -/

theorem run_jmpAbs (h : s.Ready) (hl : i.list = .jmpAbs) : ∃ r l v, r = { s.regs with pc := s.regs.pc + 1#16 } ∧
    join v l.npcl = s.absOperand ∧
    (s.present i).view.run (.instr i) = ⟨r, l, doneEng i .npch .read 0 (s.eng.cycles + (baseCycles i - 1)), s.devices, v⟩ := by
  rw [present_view h]
  refine ⟨_, ((s.fetchedView i).run (.instr i)).l, ((s.fetchedView i).run (.instr i)).v, rfl, ?_, ?_⟩ <;>
    simp [State.fetchedView, View.run, Running.list, hl, cyclesAfterFetch, View.cycles, View.mid, View.drive, View.finish, View.address,
      View.addr, View.capture, View.selected, advEng, capRegs, capLatch, addrRegs, addrLatch, addrOut, dataRegs, dataLatch, penaltyOf, rd,
      cyclesOf, doneEng, baseCycles, State.operand1, State.operand2, State.absOperand, peek_solid h.solid]

theorem run_jmpInd (h : s.Ready) (hl : i.list = .jmpInd) : ∃ r l v, r = { s.regs with pc := s.regs.pc + 2#16 } ∧
    join v l.npcl = s.peekWord s.absOperand ∧
    (s.present i).view.run (.instr i) = ⟨r, l, doneEng i .npch .read 0 (s.eng.cycles + (baseCycles i - 1)), s.devices, v⟩ := by
  rw [present_view h]
  refine ⟨_, ((s.fetchedView i).run (.instr i)).l, ((s.fetchedView i).run (.instr i)).v, rfl, ?_, ?_⟩ <;>
    simp [State.fetchedView, View.run, Running.list, hl, cyclesAfterFetch, View.cycles, View.mid, View.drive, View.finish, View.address,
      View.addr, View.capture, View.selected, advEng, capRegs, capLatch, addrRegs, addrLatch, addrOut, dataRegs, dataLatch, penaltyOf, rd,
      cyclesOf, doneEng, baseCycles, State.operand1, State.operand2, State.absOperand, State.peekWord, peek_solid h.solid,
      BitVec.add_assoc]

theorem run_jmpIax (h : s.Ready) (hl : i.list = .jmpIax) : ∃ r l v, r = { s.regs with pc := s.regs.pc + 2#16 } ∧
    join v l.npcl = s.peekWord (indexed s.absOperand s.regs.x) ∧
    (s.present i).view.run (.instr i) = ⟨r, l, doneEng i .npch .read 0 (s.eng.cycles + (baseCycles i - 1)), s.devices, v⟩ := by
  rw [present_view h]
  refine ⟨_, ((s.fetchedView i).run (.instr i)).l, ((s.fetchedView i).run (.instr i)).v, rfl, ?_, ?_⟩ <;>
    simp [State.fetchedView, View.run, Running.list, hl, cyclesAfterFetch, View.cycles, View.mid, View.drive, View.finish, View.address,
      View.addr, View.capture, View.selected, advEng, capRegs, capLatch, addrRegs, addrLatch, addrOut, dataRegs, dataLatch, penaltyOf, rd,
      cyclesOf, doneEng, baseCycles, State.operand1, State.operand2, State.absOperand, State.peekWord, peek_solid h.solid,
      BitVec.add_assoc]

/-- What two pushes leave in the devices. -/
def pushed2 (ds : List Device) (sp v1 v2 : Byte) : List Device := takeAll (takeAll ds (stackAddr sp) v1) (stackAddr (sp - 1#8)) v2

/-- What three pushes leave in the devices. -/
def pushed3 (ds : List Device) (sp v1 v2 v3 : Byte) : List Device := takeAll (pushed2 ds sp v1 v2) (stackAddr (sp - 2#8)) v3

theorem Solid.pushed2 {ds : List Device} (h : Solid ds) (sp v1 v2 : Byte) : Solid (pushed2 ds sp v1 v2) := (h.takeAll _ _).takeAll _ _

theorem Solid.pushed3 {ds : List Device} (h : Solid ds) (sp v1 v2 v3 : Byte) : Solid (pushed3 ds sp v1 v2 v3) :=
  (h.pushed2 _ _ _).takeAll _ _

theorem stack_below {sp : Byte} (k : Byte) (hk : k ≠ 0#8) : stackAddr sp ≠ stackAddr (sp - k) :=
  stackAddr_ne (fun h => hk (by bv_omega))

/-- Two pushes store their bytes on the stack and nothing else (spec R23). -/
theorem pushed2_of_devices {t : State} (hs : Solid s.devices) {sp v1 v2 : Byte} (h : t.devices = Machine.pushed2 s.devices sp v1 v2) :
    s.Pushed2 t sp v1 v2 := by
  have h1 : State.Stored s (s.setDevices (takeAll s.devices (stackAddr sp) v1)) (stackAddr sp) v1 := stored_of_takeAll hs rfl
  have h2 : State.Stored (s.setDevices (takeAll s.devices (stackAddr sp) v1)) t (stackAddr (sp - 1#8)) v2 :=
    stored_of_takeAll (hs.takeAll _ _) h
  have ht := takes_takeAll (s := s) (t := s.setDevices (takeAll s.devices (stackAddr sp) v1)) rfl (stackAddr (sp - 1#8))
  have hne := stack_below (sp := sp) 1#8 (by decide)
  refine ⟨?_, ?_, ?_⟩
  · rw [h2.elsewhere _ hne, h1.there]
  · rw [h2.there, ht, h1.elsewhere _ hne.symm]
  · intro b hb1 hb2; rw [h2.elsewhere b hb2, h1.elsewhere b hb1]

/-- Three pushes store their bytes on the stack and nothing else (spec R23). -/
theorem pushed3_of_devices {t : State} (hs : Solid s.devices) {sp v1 v2 v3 : Byte}
    (h : t.devices = Machine.pushed3 s.devices sp v1 v2 v3) : s.Pushed3 t sp v1 v2 v3 := by
  have h1 : State.Pushed2 s (s.setDevices (Machine.pushed2 s.devices sp v1 v2)) sp v1 v2 := pushed2_of_devices hs rfl
  have h2 : State.Stored (s.setDevices (Machine.pushed2 s.devices sp v1 v2)) t (stackAddr (sp - 2#8)) v3 :=
    stored_of_takeAll (hs.pushed2 _ _ _) h
  have ht : (s.setDevices (Machine.pushed2 s.devices sp v1 v2)).takes (stackAddr (sp - 2#8)) = s.takes (stackAddr (sp - 2#8)) := by
    rw [takes_takeAll (s := s.setDevices (takeAll s.devices (stackAddr sp) v1))
      (t := s.setDevices (Machine.pushed2 s.devices sp v1 v2)) rfl, takes_takeAll (s := s) rfl]
  have hne1 := stack_below (sp := sp) 2#8 (by decide)
  have hne2 : stackAddr (sp - 1#8) ≠ stackAddr (sp - 2#8) := stackAddr_ne (fun h => by bv_omega)
  refine ⟨?_, ?_, ?_, ?_⟩
  · rw [h2.elsewhere _ hne1, h1.first]
  · rw [h2.elsewhere _ hne2, h1.second]
  · rw [h2.there, ht, h1.elsewhere _ hne1.symm hne2.symm]
  · intro b hb1 hb2 hb3; rw [h2.elsewhere b hb3, h1.elsewhere b hb1 hb2]

/-- A byte outside the stack page reads as before three pushes. -/
theorem readAll_pushed3 (ds : List Device) (sp v1 v2 v3 : Byte) {a : Word} (h : hiByte a ≠ 0x01#8) :
    readAll (Machine.pushed3 ds sp v1 v2 v3) a = readAll ds a := by
  have hne : ∀ b : Byte, a ≠ stackAddr b := by intro b e; rw [e] at h; exact h (by simp [stackAddr, Config.stackPage])
  rw [Machine.pushed3, Machine.pushed2, readAll_takeAll_ne _ _ _ _ (hne _), readAll_takeAll_ne _ _ _ _ (hne _),
    readAll_takeAll_ne _ _ _ _ (hne _)]

theorem sub_one_sub_one (b : Byte) : b - 1#8 - 1#8 = b - 2#8 := by rw [BitVec.sub_sub]; rfl

theorem run_jsr (h : s.Ready) (hl : i.list = .jsr) : ∃ r l v, r = { s.regs with pc := s.regs.pc + 1#16, s := s.regs.s - 2#8 } ∧
    join v l.npcl = join (readAll (pushed2 s.devices s.regs.s (hiByte (s.regs.pc + 1#16)) (loByte (s.regs.pc + 1#16))) (s.regs.pc + 1#16))
      s.operand1 ∧
    (s.present i).view.run (.instr i) = ⟨r, l, doneEng i .npch .read 0 (s.eng.cycles + (baseCycles i - 1)),
      pushed2 s.devices s.regs.s (hiByte (s.regs.pc + 1#16)) (loByte (s.regs.pc + 1#16)), v⟩ := by
  rw [present_view h]
  refine ⟨_, ((s.fetchedView i).run (.instr i)).l, ((s.fetchedView i).run (.instr i)).v, rfl, ?_, ?_⟩ <;>
    simp [State.fetchedView, View.run, Running.list, hl, cyclesAfterFetch, View.cycles, View.mid, View.drive, View.finish, View.address,
      View.addr, View.capture, View.selected, advEng, capRegs, capLatch, addrRegs, addrLatch, addrOut, dataRegs, dataLatch, penaltyOf, rd, wr,
      cyclesOf, doneEng, baseCycles, State.operand1, outByte, pushed2, peek_solid h.solid, sub_one_sub_one]

theorem add_one_add_one (b : Byte) : b + 1#8 + 1#8 = b + 2#8 := by rw [BitVec.add_assoc]; rfl

/-- A word on the stack above `sp`: the low byte was pushed last (spec R23, R306). -/
def State.stackWord (s : State) (sp : Byte) : Word := join (s.peek (stackAddr (sp + 2#8))) (s.peek (stackAddr (sp + 1#8)))

theorem run_rts (h : s.Ready) (hl : i.list = .rts) : ∃ l v,
    (s.present i).view.run (.instr i) = ⟨{ s.regs with pc := s.stackWord s.regs.s, s := s.regs.s + 2#8 }, l,
      doneEng i .null .read 0 (s.eng.cycles + (baseCycles i - 1)), s.devices, v⟩ := by
  rw [present_view h]
  refine ⟨((s.fetchedView i).run (.instr i)).l, ((s.fetchedView i).run (.instr i)).v, ?_⟩
  simp [State.fetchedView, View.run, Running.list, hl, cyclesAfterFetch, View.cycles, View.mid, View.drive, View.finish, View.address,
    View.addr, View.capture, View.selected, advEng, capRegs, capLatch, addrRegs, addrLatch, addrOut, dataRegs, dataLatch, penaltyOf, rd,
    cyclesOf, doneEng, baseCycles, State.stackWord, peek_solid h.solid, add_one_add_one]

theorem run_rti (h : s.Ready) (hl : i.list = .rti) : ∃ r l v,
    r = { s.regs with s := s.regs.s + 3#8, p := s.peek (stackAddr (s.regs.s + 1#8)) } ∧
    join v l.npcl = s.stackWord (s.regs.s + 1#8) ∧
    (s.present i).view.run (.instr i) = ⟨r, l, doneEng i .npch .read 0 (s.eng.cycles + (baseCycles i - 1)), s.devices, v⟩ := by
  rw [present_view h]
  refine ⟨_, ((s.fetchedView i).run (.instr i)).l, ((s.fetchedView i).run (.instr i)).v, rfl, ?_, ?_⟩ <;>
    simp [State.fetchedView, View.run, Running.list, hl, cyclesAfterFetch, View.cycles, View.mid, View.drive, View.finish, View.address,
      View.addr, View.capture, View.selected, advEng, capRegs, capLatch, addrRegs, addrLatch, addrOut, dataRegs, dataLatch, penaltyOf, rd,
      cyclesOf, doneEng, baseCycles, State.stackWord, peek_solid h.solid, BitVec.add_assoc]

/-! ### BRK and interrupt entry -/

theorem run_brk (h : s.Ready) (hl : i.list = .brk) : ∃ r l v,
    r = { s.regs with pc := s.regs.pc + 1#16, s := s.regs.s - 3#8, p := enteredStatus s.regs.p } ∧
    join v l.npcl = join (readAll (pushed3 s.devices s.regs.s (hiByte (s.regs.pc + 1#16)) (loByte (s.regs.pc + 1#16))
        (pushedByInstr s.regs.p)) (Config.vectorIrq + 1#16))
      (readAll (pushed3 s.devices s.regs.s (hiByte (s.regs.pc + 1#16)) (loByte (s.regs.pc + 1#16)) (pushedByInstr s.regs.p))
        Config.vectorIrq) ∧
    (s.present i).view.run (.instr i) = ⟨r, l, doneEng i .npch .read 0 (s.eng.cycles + (baseCycles i - 1)),
      pushed3 s.devices s.regs.s (hiByte (s.regs.pc + 1#16)) (loByte (s.regs.pc + 1#16)) (pushedByInstr s.regs.p), v⟩ := by
  rw [present_view h]
  refine ⟨_, ((s.fetchedView i).run (.instr i)).l, ((s.fetchedView i).run (.instr i)).v, rfl, ?_, ?_⟩ <;>
    simp [State.fetchedView, View.run, Running.list, hl, cyclesAfterFetch, View.cycles, View.mid, View.drive, View.finish, View.address,
      View.addr, View.capture, View.selected, advEng, capRegs, capLatch, addrRegs, addrLatch, addrOut, dataRegs, dataLatch, penaltyOf, rd, wr,
      vec, cyclesOf, doneEng, baseCycles, outByte, pushed2, pushed3, sub_one_sub_one, BitVec.sub_sub, engVector, pushedStatus]

/-! ### Pushes and pulls -/

theorem run_push (h : s.Ready) (hl : i.list = .push) (hm : i.mnemonic = .pha ∨ i.mnemonic = .phx ∨ i.mnemonic = .phy) : ∃ l,
    (s.present i).view.run (.instr i) = ⟨{ s.regs with s := s.regs.s - 1#8 }, l,
      doneEng i .data .write 0 (s.eng.cycles + (baseCycles i - 1)),
      takeAll s.devices (stackAddr s.regs.s) (storedByte i.mnemonic s.regs), storedByte i.mnemonic s.regs⟩ := by
  rw [present_view h]
  refine ⟨((s.fetchedView i).run (.instr i)).l, ?_⟩
  rcases hm with hm | hm | hm <;>
    simp [State.fetchedView, View.run, Running.list, hl, cyclesAfterFetch, View.cycles, View.mid, View.drive, View.finish, View.address,
      View.addr, View.capture, View.selected, advEng, capRegs, capLatch, addrRegs, addrLatch, addrOut, dataRegs, dataLatch, penaltyOf, rd, wr,
      cyclesOf, doneEng, baseCycles, outByte, hm, storedByte]

theorem run_php (h : s.Ready) (hl : i.list = .php) : ∃ l,
    (s.present i).view.run (.instr i) = ⟨{ s.regs with s := s.regs.s - 1#8 }, l,
      doneEng i .p .write 0 (s.eng.cycles + (baseCycles i - 1)),
      takeAll s.devices (stackAddr s.regs.s) (pushedByInstr s.regs.p), pushedByInstr s.regs.p⟩ := by
  rw [present_view h]
  refine ⟨((s.fetchedView i).run (.instr i)).l, ?_⟩
  simp [State.fetchedView, View.run, Running.list, hl, cyclesAfterFetch, View.cycles, View.mid, View.drive, View.finish, View.address,
    View.addr, View.capture, View.selected, advEng, capRegs, capLatch, addrRegs, addrLatch, addrOut, dataRegs, dataLatch, penaltyOf, rd, wr,
    cyclesOf, doneEng, baseCycles, outByte, pushedStatus]

theorem run_pull (h : s.Ready) (hl : i.list = .pull) : ∃ l,
    (s.present i).view.run (.instr i) = ⟨{ s.regs with s := s.regs.s + 1#8 }, l,
      doneEng i .data .read 0 (s.eng.cycles + (baseCycles i - 1)), s.devices, s.peek (stackAddr (s.regs.s + 1#8))⟩ := by
  rw [present_view h]
  refine ⟨((s.fetchedView i).run (.instr i)).l, ?_⟩
  simp [State.fetchedView, View.run, Running.list, hl, cyclesAfterFetch, View.cycles, View.mid, View.drive, View.finish, View.address,
    View.addr, View.capture, View.selected, advEng, capRegs, capLatch, addrRegs, addrLatch, addrOut, dataRegs, dataLatch, penaltyOf, rd,
    cyclesOf, doneEng, baseCycles, peek_solid h.solid]

theorem run_plp (h : s.Ready) (hl : i.list = .plp) : ∃ l,
    (s.present i).view.run (.instr i) = ⟨{ s.regs with s := s.regs.s + 1#8 }, l,
      doneEng i .p .read 0 (s.eng.cycles + (baseCycles i - 1)), s.devices, s.peek (stackAddr (s.regs.s + 1#8))⟩ := by
  rw [present_view h]
  refine ⟨((s.fetchedView i).run (.instr i)).l, ?_⟩
  simp [State.fetchedView, View.run, Running.list, hl, cyclesAfterFetch, View.cycles, View.mid, View.drive, View.finish, View.address,
    View.addr, View.capture, View.selected, advEng, capRegs, capLatch, addrRegs, addrLatch, addrOut, dataRegs, dataLatch, penaltyOf, rd,
    cyclesOf, doneEng, baseCycles, peek_solid h.solid]

end Sys2Proof.Machine
end

