-- ==== Sys2Proof/Laws/Special.lean ====
section
/-!
SUPPORT. The instructions that do not run through a whole list of their own: the one-cycle no-op, STP, WAI where it waits or refuses, and
interrupt entry, which takes an instruction's place.
-/

set_option linter.unusedSimpArgs false

namespace Sys2Proof.Machine

variable {s : State} {i : Instr} {x : View} {n : Nat} {w : Ambient} {ph : Bool}

/-- In a ready state no IRQ is latched at the next edge (spec R165). -/
theorem State.Ready.calm {e : Engine} (h : s.Ready) : Calm ⟨s.waiSemantics, s.bp.irqb.level⟩ s.regs e := h.masked.imp_right .inl

/-! ### The one-cycle no-op -/

/-- A list of one cycle is complete at its own selection edge (spec R169). -/
theorem Holds.selectOne {r : Regs} {l : Latches} {e : Engine} {ds : List Device} {v : Byte} (h : Holds ph s r l e ds v n w) (hi : e.idx = 1)
    (hm : e.mode = .none) (hir : l.ir = i.opcode) (hl : (cyclesOf i.list).length = 1) :
    Holds ph s.select r l { e with list := i.list, instr := .instr i, idx := 0, pending := some (.instr i) } ds v n w := by
  have h1 : s.select = (((s.setList i.list).setInstr (.instr i)).setIdx 0).setPending (some (.instr i)) := by
    simp only [State.select, h.eng, hi, hm, if_true, State.beginInstr, h.latch, hir, decodeOpcode_opcode]
    rw [if_pos hl]
  rw [h1]
  exact ⟨h.regs, h.latch, by simp [State.setInstr, State.setList, State.setIdx, State.setPending, h.eng], h.devices, h.data, h.draws,
    h.wai, h.script, h.phi2, h.rdy, h.resb, h.irqb⟩

/-- The one-cycle no-ops: the selection edge is the boundary edge of the next instruction. -/
theorem exec_oneCycle (h : s.Ready) (hl : i.list = .nop1) (he : ∀ c, effect i.mnemonic i.list c = c) :
    ∃ t, exec i s = .next t ∧ s.Ran t s.regs 1 ∧ t.devices = s.devices ∧ t.draws = s.draws := by
  have h0 := present_holds (i := i) h.toInterruptible
  have h1 : HoldsV false ((s.present i).setPhi2 false) (s.present i).view s.draws ⟨s.waiSemantics, s.bp.irqb.level⟩ := Holds.fall h0 false
  have h2 : HoldsV false ((s.present i).setPhi2 false).capture (s.present i).view.capture s.draws ⟨s.waiSemantics, s.bp.irqb.level⟩ :=
    Holds.capture h1 (.inl h.pending)
  have h3 := Holds.selectOne (i := i) h2 rfl h.mode rfl (by rw [hl]; rfl)
  generalize hx : ({ (s.present i).view.capture.e with list := i.list, instr := .instr i, idx := 0, pending := some (.instr i) } : Engine) = e
    at h3
  obtain ⟨t, ht, h4, -, -⟩ := HoldsV.boundaryDrive (x := ⟨_, _, e, _, _⟩) (p := .instr i) h3 h.solid (by rw [← hx]) (by rw [← hx])
  have hc := Holds.cycle h0 h.calm h.quiet.running h.extra ht
  have hr : ∀ c, Running.effect (.instr i) c = c := he
  have hx0 : e.extra = 0 := by rw [← hx]; exact h.extra
  have hc' : ((s.present i).setPhi2 false).capture.select.regs = s.regs := h3.regs
  rw [hr] at h4
  simp only [View.boundary, HoldsV] at h4
  rw [h3.eng, hc', h3.draws, hx0] at h4
  refine ⟨t.clockRises, ?_, ?_, h4.devices, h4.draws⟩
  · rw [exec_eq, runInstr, resume, runFuel, show (s.present i).eng.extra = 0 from h.extra]
    exact runCycles_pause hc (by simp [pauses, h4.eng]) 11
  · refine ran_of_holds h.solid (r := s.regs) h4 rfl rfl rfl rfl rfl rfl ?_ (.inl ?_) ?_
    · show e.stopped = false; rw [← hx]; exact h.quiet.running
    · show e.mode = .none; rw [← hx]; exact h.mode
    · show e.cycles + 1 = _; rw [← hx]; rfl

/-! ### STP -/

/-- A HALT cycle reads at PC and stops the engine (spec R178). -/
theorem Holds.halt {r : Regs} {l : Latches} {e : Engine} {ds : List Device} {v : Byte} (h : Holds ph s r l e ds v n w) :
    Holds ph (s.drive (rd .pc .halt)) r l { e with prevTag := .halt, prevRw := .read, stopped := true } ds v n w ∧
      (s.drive (rd .pc .halt)).bp.rwb.level = true ∧ (s.drive (rd .pc .halt)).bp.addr.value = r.pc := by
  have h1 := (h.address .pc).1
  have h2 := h1.lines true false true true
  have h3 : Holds ph (((s.driveAddress .pc).setLines true false true true).setStopped true) r l { e with stopped := true } ds v n w :=
    ⟨h2.regs, h2.latch, by rw [← h2.eng]; rfl, h2.devices, h2.data, h2.draws, h2.wai, h2.script, h2.phi2, h2.rdy, h2.resb,
      h2.irqb⟩
  have h4 : s.drive (rd .pc .halt) =
      (((s.driveAddress .pc).setLines true false true true).setStopped true).setPrev .halt .read := by
    simp [State.drive, rd, State.driveData, State.penalty]
  rw [h4]
  refine ⟨h3.setPrev _ _, rfl, ?_⟩
  show s.regs.pc = _
  rw [h.regs]

/-- STP stops the engine on its second cycle. -/
theorem exec_stp (h : s.Ready) : ∃ t, exec .stp s = .next t ∧ t.regs = s.regs ∧
    t.eng = ⟨.stp, 0, .instr .stp, .halt, .read, .none, 0, some (.instr .stp), true, s.eng.cycles + 1⟩ ∧
    t.devices = s.devices ∧ t.draws = s.draws ∧ t.waiSemantics = s.waiSemantics ∧ t.script = [] ∧ t.bp.phi2.level = true ∧
    t.bp.rdy.level = true ∧ t.bp.resb.level = true ∧ t.bp.irqb.level = s.bp.irqb.level := by
  have h0 := present_holds (i := .stp) h.toInterruptible
  have h1 : HoldsV false ((s.present .stp).setPhi2 false) (s.present .stp).view s.draws ⟨s.waiSemantics, s.bp.irqb.level⟩ := Holds.fall h0 false
  have h2 := HoldsV.selectEdge h1 (present_fetched h.toInterruptible) (u := .instr .stp) (present_selects h) (by decide)
  obtain ⟨h3, hrw, ha⟩ := Holds.halt h2
  have h4 := h3.advance (by intro hc; cases hc)
  have hd : ((s.present .stp).setPhi2 false).capture.select.deferred = ((s.present .stp).setPhi2 false).capture.select :=
    Holds.deferred_id h2 (.inl h.pending)
  have hrun : ((s.present .stp).setPhi2 false).capture.select.deferred.runCycle =
      .next (((s.present .stp).setPhi2 false).capture.select.drive (rd .pc .halt)).advance.count := by
    rw [hd]
    exact Holds.runCycle h2 (by rfl) (by simp [rd]) (by intro hc; cases hc)
  have hc := Holds.cycle h0 h.calm h.quiet.running h.extra hrun
  have hrw' : (((s.present .stp).setPhi2 false).capture.select.drive (rd .pc .halt)).advance.count.bp.rwb.level = true := by
    rw [advance_count_bp]; exact hrw
  have h5 := (h4.riseRead h.solid hrw').1
  refine ⟨_, ?_, h5.regs, ?_, h5.devices, h5.draws, h5.wai, h5.script, h5.phi2, h5.rdy, h5.resb, h5.irqb⟩
  · rw [exec_eq, runInstr, resume, runFuel, show (s.present .stp).eng.extra = 0 from h.extra]
    exact runCycles_pause hc (by rw [pauses, h5.eng]; rfl) 11
  · rw [h5.eng]
    have hx := h.extra
    have hm := h.mode
    have hp := h.pending
    have : (s.present .stp).view.capture.e = ⟨s.eng.list, 1, s.eng.instr, .opcode, .read, .none, 0, none, s.eng.stopped, s.eng.cycles⟩ := by
      show ({ s.eng with idx := 1, prevTag := .opcode, prevRw := .read } : Engine) = _
      cases hs : s.eng; simp_all
    show advEng { (s.present .stp).view.capture.e with list := _, instr := _, prevTag := _, prevRw := _, stopped := _ } = _
    rw [this]; rfl

/-! ### WAI where it does not pass -/

/-- WAI's selection edge drives its first idle cycle, whatever `waiSemantics` is. -/
theorem wai_first (h : s.Ready) : ∃ t l, (s.present .wai).cycle = .next t ∧
    HoldsV true t ⟨s.regs, l, ⟨.wai, 2, .instr .wai, .null, .read, .none, 0, none, false, s.eng.cycles + 1⟩, s.devices,
      readAll s.devices s.regs.pc⟩ s.draws ⟨s.waiSemantics, s.bp.irqb.level⟩ := by
  have h0 := present_holds (i := .wai) h.toInterruptible
  have h1 : HoldsV false ((s.present .wai).setPhi2 false) (s.present .wai).view s.draws ⟨s.waiSemantics, s.bp.irqb.level⟩ := Holds.fall h0 false
  have h2 := HoldsV.selectEdge h1 (present_fetched h.toInterruptible) (u := .instr .wai) (present_selects h) (by decide)
  have hd : ((s.present .wai).setPhi2 false).capture.select.deferred = ((s.present .wai).setPhi2 false).capture.select :=
    Holds.deferred_id h2 (.inl h.pending)
  obtain ⟨t, ht, h3, -, -⟩ := HoldsV.drive h2 h.solid (c := rd .pc .null) rfl (by decide) (by simp [rd]) (by intro _ h; cases h)
    (by intro _ h; cases h)
  have hc := Holds.cycle h0 h.calm h.quiet.running h.extra (t := t) (by rw [hd, ht])
  refine ⟨_, { s.latch with ir := Instr.wai.opcode }, hc, ?_⟩
  have hx := h.extra
  have hm := h.mode
  have hp := h.pending
  have hr := h.quiet.running
  have : (s.present .wai).view.capture.e = ⟨s.eng.list, 1, s.eng.instr, .opcode, .read, .none, 0, none, false, s.eng.cycles⟩ := by
    show ({ s.eng with idx := 1, prevTag := .opcode, prevRw := .read } : Engine) = _
    cases hs : s.eng; simp_all
  simp only [View.selected, Running.list, this, HoldsV] at h3
  exact h3

/-- Under `refuse` WAI stops the model at its INTERNAL cycle (spec R347). -/
theorem exec_wai_refuse (h : s.Ready) (hw : s.waiSemantics = .refuse) : exec .wai s = .refused .waiExecuted := by
  obtain ⟨t, l, ht, h1⟩ := wai_first h
  have h2 : HoldsV false (t.setPhi2 false) _ s.draws ⟨s.waiSemantics, s.bp.irqb.level⟩ := Holds.fall h1 false
  have h3 := Holds.capture h2 (.inl rfl)
  have hsel := Holds.select_id h3 (show (2 : Nat) ≠ 1 by decide)
  have hdef := Holds.deferred_id h3 (.inl rfl)
  have hrun : (t.setPhi2 false).capture.runCycle = .refused .waiExecuted := by
    simp [State.runCycle, h3.eng, cyclesOf, cyclesAfterFetch, rd, h3.wai, hw]
  have hcyc : t.cycle = .refused .waiExecuted := by
    have h4 : (t.setPhi2 false).eng.stopped = false := by rw [h2.eng]
    have h5 := Holds.sample_id h2 h.calm
    simp only [State.cycle, State.takeInput, h1.script, State.clockFalls, h1.phi2, if_true, State.cpuEdge, h2.rdy, h4]
    simp [setStopped_self h4, State.tick, h1.eng, h5, hsel, hdef, hrun]
  rw [exec_eq, runInstr, resume, runFuel, show (s.present .wai).eng.extra = 0 from h.extra]
  have hp : pauses (s.present .wai) t = false := by
    rw [pauses, h1.eng, show (s.present .wai).eng.idx = 1 from rfl]; rfl
  simp only [runCycles, ht, hcyc, hp]
  rfl

/-- The engine at WAI's INTERNAL cycle, after a cycle with data tag `tag`. -/
def waiEng (tag : DataTag) (k : Nat) : Engine := ⟨.wai, 2, .instr .wai, tag, .read, .none, 0, none, false, k⟩

/-- Under `waitForIrq`, with IRQB not asserted, WAI's INTERNAL cycle runs and is to run again (spec R347). -/
theorem wai_idles {r : Regs} {l : Latches} {tag : DataTag} {k : Nat} {ds : List Device} {v : Byte}
    (h1 : HoldsV true s ⟨r, l, waiEng tag k, ds, v⟩ n ⟨.waitForIrq, true⟩) (hs : Solid ds) (ht : tag = .null ∨ tag = .internal) :
    ∃ t, s.cycle = .next t ∧ HoldsV true t ⟨r, l, waiEng .internal (k + 1), ds, readAll ds r.pc⟩ n ⟨.waitForIrq, true⟩ := by
  have h2 : HoldsV false (s.setPhi2 false) ⟨r, l, waiEng tag k, ds, v⟩ n ⟨.waitForIrq, true⟩ := Holds.fall h1 false
  have h3 : Holds false (s.setPhi2 false).capture r l (waiEng tag k) ds v n ⟨.waitForIrq, true⟩ := by
    rcases ht with rfl | rfl <;> exact Holds.capture h2 (.inl rfl)
  have hsel := Holds.select_id h3 (show (2 : Nat) ≠ 1 by decide)
  have hdef := Holds.deferred_id h3 (.inl rfl)
  obtain ⟨h4, ha, hrw⟩ := Holds.drive h3 (rd .pc .internal) (by decide)
  have hadv : ((s.setPhi2 false).capture.drive (rd .pc .internal)).advance = (s.setPhi2 false).capture.drive (rd .pc .internal) := by
    simp [State.advance, State.waiting, h4.eng, h4.wai, h4.irqb, waiEng]
  have hrun : (s.setPhi2 false).capture.runCycle = .next ((s.setPhi2 false).capture.drive (rd .pc .internal)).count := by
    rw [Holds.runCycle h3 (c := rd .pc .internal) rfl (by simp [rd]) (by simp), hadv]
  have h5 := (h4.count.riseRead hs hrw).1
  have ha' : ((s.setPhi2 false).capture.drive (rd .pc .internal)).count.bp.addr.value = r.pc := ha
  rw [ha'] at h5
  exact ⟨_, Holds.cycle h1 (.inl rfl) rfl rfl (by rw [hsel, hdef, hrun]), h5⟩

/-- What is left where WAI waits. -/
theorem waiting_of_holds {r : Regs} {l : Latches} {k : Nat} {ds : List Device} {v : Byte}
    (h : HoldsV true s ⟨r, l, waiEng .internal k, ds, v⟩ n ⟨.waitForIrq, true⟩) (hs : Solid ds) : s.Waiting :=
  ⟨⟨h.script, h.phi2, h.rdy, h.resb, by rw [h.eng]; rfl⟩, by rw [h.devices]; exact hs, h.wai, by rw [h.eng]; exact ⟨rfl, rfl, rfl⟩,
    by rw [h.eng]; exact ⟨rfl, rfl⟩, by rw [h.eng]; rfl, by rw [h.eng]; rfl, by rw [h.eng]; rfl⟩

/-- Under `waitForIrq` WAI waits at its INTERNAL cycle while IRQB is not asserted (spec R347). -/
theorem exec_wai_waits (h : s.Ready) (hw : s.waiSemantics = .waitForIrq) (hq : s.bp.irqb.level = true) : ∃ t, exec .wai s = .next t ∧
    t.regs = s.regs ∧ t.Waiting ∧ t.eng.cycles = s.eng.cycles + 2 ∧ t.bp.irqb.level = true ∧ t.devices = s.devices ∧
    t.draws = s.draws := by
  obtain ⟨t, l, ht, h1⟩ := wai_first h
  rw [hw, hq] at h1
  obtain ⟨u, hu, h2⟩ := wai_idles h1 h.solid (.inl rfl)
  refine ⟨u, ?_, h2.regs, waiting_of_holds h2 h.solid, by rw [h2.eng]; rfl, h2.irqb, h2.devices, h2.draws⟩
  rw [exec_eq, runInstr, resume, runFuel, show (s.present .wai).eng.extra = 0 from h.extra]
  have hp : pauses (s.present .wai) t = false := by
    rw [pauses, h1.eng, show (s.present .wai).eng.idx = 1 from rfl]; rfl
  simp only [runCycles, ht, hp]
  exact runCycles_pause hu (by rw [pauses, h1.eng, h2.eng]; rfl) 10

theorem State.Waiting.holds (h : s.Waiting) :
    HoldsV true s ⟨s.regs, s.latch, waiEng .internal s.eng.cycles, s.devices, s.dataBus⟩ s.draws ⟨.waitForIrq, s.bp.irqb.level⟩ := by
  refine ⟨rfl, rfl, ?_, rfl, rfl, rfl, h.parameter, h.quiet.noInput, h.quiet.clock, h.quiet.rdy, h.quiet.resb, rfl⟩
  have h1 := h.place
  have h2 := h.last
  have h3 := h.extra
  have h4 := h.pending
  have h5 := h.mode
  have h6 := h.quiet.running
  cases hs : s.eng
  simp_all [waiEng]

theorem State.Waiting.step_eq (h : s.Waiting) : step s = runCycles 12 s := by
  unfold step
  rw [if_neg (by simp [State.fetched, h.place.2.1]), resume, runFuel, h.extra]

/-- A step waits on while IRQB is not asserted (spec R347). -/
theorem step_waits (h : s.Waiting) (hq : s.bp.irqb.level = true) : ∃ t, step s = .next t ∧ t.regs = s.regs ∧ t.Waiting ∧
    t.eng.cycles = s.eng.cycles + 1 ∧ t.bp.irqb.level = true ∧ t.devices = s.devices ∧ t.draws = s.draws := by
  have h1 := h.holds
  rw [hq] at h1
  obtain ⟨t, ht, h2⟩ := wai_idles h1 h.solid (.inr rfl)
  refine ⟨t, ?_, h2.regs, waiting_of_holds h2 h.solid, by rw [h2.eng]; rfl, h2.irqb, h2.devices, h2.draws⟩
  rw [h.step_eq]
  exact runCycles_pause ht (by rw [pauses, h1.eng, h2.eng]; rfl) 11

/-- When IRQB is asserted WAI completes: the waiting cycle for the last time and the boundary edge (spec R347). -/
theorem step_wakes (h : s.Waiting) (hq : s.bp.irqb.level = false) : ∃ t, step s = .next t ∧ s.Ran t s.regs 2 ∧
    t.devices = s.devices ∧ t.draws = s.draws := by
  have h1 := h.holds
  have hpass : Passes ⟨.waitForIrq, s.bp.irqb.level⟩ := .inr ⟨rfl, hq⟩
  obtain ⟨t, ht, h2, -, -⟩ := h1.midLast h.solid (c := rd .pc .internal) rfl rfl rfl (Nat.le_refl 2) rfl rfl (by decide) (by decide)
    (fun _ => hpass) (fun _ => hpass)
  have h3 : HoldsV true t ⟨s.regs, s.latch, doneEng .wai .internal .read 0 (s.eng.cycles + 1), s.devices, readAll s.devices s.regs.pc⟩
      s.draws ⟨.waitForIrq, s.bp.irqb.level⟩ := h2
  obtain ⟨c, u, hc, hu, h4, h5, h6⟩ := HoldsV.boundaryLatch h3 h.solid (p := .instr .wai) rfl rfl rfl rfl (fun _ => rfl)
  have he : Running.effect (.instr .wai) c = c := rfl
  rw [he] at h4 h6
  simp only [View.boundary, HoldsV] at h4 h6
  rw [hc.regs, hc.eng, hc.draws] at h4
  refine ⟨u, ?_, ran_of_holds h.solid (r := s.regs) h4 ?_ rfl rfl rfl rfl rfl rfl ?_ rfl, h4.devices, h4.draws⟩
  · rw [h.step_eq]
    have hp : pauses s t = false := by rw [pauses, h1.eng, h3.eng]; rfl
    simp only [runCycles, ht, hp]
    exact runCycles_pause hu (by rw [pauses, h4.eng]; rfl) 10
  · rw [h.parameter]
  · exact latchMode_cases ⟨.waitForIrq, s.bp.irqb.level⟩ s.regs (doneEng .wai .internal .read 0 (s.eng.cycles + 1))

/-! ### Interrupt entry -/

theorem run_intr {r : Regs} {l : Latches} {li : ListName} {u : Running} {m : Mode} {k : Nat} {ds : List Device} {v : Byte}
    {vector : Word} (hm : m.vector = some vector) : ∃ r' l' v',
    r' = { r with pc := r.pc - 1#16, s := r.s - 3#8, p := enteredStatus r.p } ∧
    join v' l'.npcl = join (readAll (pushed3 ds r.s (hiByte (r.pc - 1#16)) (loByte (r.pc - 1#16)) (pushedByEntry r.p)) (vector + 1#16))
      (readAll (pushed3 ds r.s (hiByte (r.pc - 1#16)) (loByte (r.pc - 1#16)) (pushedByEntry r.p)) vector) ∧
    View.run ⟨r, l, ⟨li, 1, u, .opcode, .read, m, 0, none, false, k⟩, ds, v⟩ .intr =
      ⟨r', l', ⟨.intr, 0, .intr, .npch, .read, .none, 0, some .intr, false, k + 6⟩,
        pushed3 ds r.s (hiByte (r.pc - 1#16)) (loByte (r.pc - 1#16)) (pushedByEntry r.p), v'⟩ := by
  refine ⟨_, (View.run ⟨r, l, ⟨li, 1, u, .opcode, .read, m, 0, none, false, k⟩, ds, v⟩ .intr).l,
    (View.run ⟨r, l, ⟨li, 1, u, .opcode, .read, m, 0, none, false, k⟩, ds, v⟩ .intr).v, rfl, ?_, ?_⟩ <;>
    simp [View.run, Running.list, cyclesAfterFetch, View.cycles, View.mid, View.drive, View.finish, View.address,
      View.addr, View.capture, View.selected, advEng, capRegs, capLatch, addrRegs, addrLatch, addrOut, dataRegs, dataLatch, penaltyOf, rd, wr,
      vec, cyclesOf, outByte, pushed2, pushed3, sub_one_sub_one, BitVec.sub_sub, engVector, pushedStatus, hm]

/-- Interrupt entry with its cause latched takes the place of the fetched instruction, whatever it is (spec R168, R373 to R378). -/
theorem exec_entry (i : Instr) (h : s.Interruptible) {vector : Word} (hm : s.eng.mode.vector = some vector) :
    ∃ t, exec i s = .next t ∧ s.Entered t vector ∧ t.draws = s.draws := by
  have hmode : s.eng.mode ≠ .none := by intro hc; rw [hc] at hm; cases hm
  have h0 := present_holds (i := i) h
  have hf := present_fetched (i := i) h
  have hx : (s.present i).view =
      ⟨s.regs, s.latch, ⟨s.eng.list, 1, s.eng.instr, .opcode, .read, s.eng.mode, 0, none, false, s.eng.cycles⟩, s.devices, i.opcode⟩ := by
    have h2 := h.extra
    have h3 := h.pending
    have h4 := h.quiet.running
    show (⟨s.regs, s.latch, { s.eng with idx := 1, prevTag := .opcode, prevRw := .read }, s.devices, i.opcode⟩ : View) = _
    cases hs : s.eng
    simp_all
  obtain ⟨r, l, v, hr, hj, hrun⟩ := run_intr (r := s.regs) (l := s.latch) (li := s.eng.list) (u := s.eng.instr) (k := s.eng.cycles)
    (ds := s.devices) (v := i.opcode) hm
  have hvec : (engVector ((s.present i).view.capture.selected .intr).e).isSome = true := by
    have h2 : ((s.present i).view.capture.selected .intr).e.mode = s.eng.mode := rfl
    have h3 : ((s.present i).view.capture.selected .intr).e.list = .intr := rfl
    unfold engVector
    rw [h2, h3, if_neg (by decide), hm]; rfl
  obtain ⟨u, hu, h1, h2, -⟩ := h0.run h.solid hf (u := .intr) (show Selects _ .intr from hmode)
    (c := rd .pc .null) (cs := (cyclesAfterFetch .intr).tail) rfl (by rw [hvec]; rfl) (by intro hc; cases hc) (by intro hc; cases hc)
    (.inr (.inl hmode))
  rw [hx, hrun] at h1 h2
  have hI : Calm ⟨s.waiSemantics, s.bp.irqb.level⟩ r ⟨.intr, 0, .intr, .npch, .read, .none, 0, some .intr, false, s.eng.cycles + 6⟩ := by
    rw [hr]; exact .inr (.inl (enteredStatus_i _))
  obtain ⟨c, t, hc, ht, h5, h6, h7⟩ := HoldsV.boundary h1 h2 (p := .intr) rfl rfl rfl rfl hI trivial
  have hx0 : (Running.effect .intr c).eng.extra = 0 := by rw [show Running.effect .intr c = c from rfl, hc.eng]; rfl
  obtain ⟨t', ht', h8⟩ := HoldsV.end ht h5 h2 (by rfl) rfl h6 h7 (by rw [h1.eng]; exact Nat.zero_ne_one)
    (fuel := 6) (by rw [View.boundary, hx0]; decide)
  have hp : (⟨r, l, ⟨.intr, 0, .intr, .npch, .read, .none, 0, some .intr, false, s.eng.cycles + 6⟩, pushed3 s.devices s.regs.s
      (hiByte (s.regs.pc - 1#16)) (loByte (s.regs.pc - 1#16)) (pushedByEntry s.regs.p), v⟩ : View).capture.r =
      { r with pc := s.peekWord vector } := by
    have h9 : hiByte vector = 0xFF#8 ∧ hiByte (vector + 1#16) = 0xFF#8 := by
      cases hmo : s.eng.mode <;> rw [hmo] at hm <;> cases hm <;> decide
    simp only [View.capture, capRegs, hj]
    rw [readAll_pushed3 _ _ _ _ _ (by rw [h9.2]; decide), readAll_pushed3 _ _ _ _ _ (by rw [h9.1]; decide), State.peekWord,
      peek_solid h.solid, peek_solid h.solid]
  simp only [View.boundary, HoldsV, show Running.effect .intr c = c from rfl, hc.regs, hc.eng, hc.draws, hp] at h8
  have h10 : t'.devices = pushed3 s.devices s.regs.s (hiByte (s.regs.pc - 1#16)) (loByte (s.regs.pc - 1#16))
    (pushedByEntry s.regs.p) := h8.devices
  refine ⟨t', ?_, ⟨?_, pushed3_of_devices h.solid h10, ?_, ?_, ?_,
    ⟨⟨⟨h8.script, h8.phi2, h8.rdy, h8.resb, congrArg Engine.stopped h8.eng⟩, by rw [h8.devices]; exact h2,
      congrArg Engine.extra h8.eng, congrArg Engine.pending h8.eng⟩, congrArg Engine.mode h8.eng, .inr ?_⟩, h8.irqb, h8.wai⟩, h8.draws⟩
  · rw [exec_eq, runInstr, resume, runFuel, show (s.present i).eng.extra = 0 from h.extra]
    have h12 := hu 6
    rw [show 0 + 12 = 6 + 6 by rfl]
    exact h12.trans ht'
  · rw [h8.regs, hr]
  · simp [State.fetched, h8.eng]
  · rw [h8.data, peek_solid (by rw [h8.devices]; exact h2), h8.devices]
  · rw [h8.eng]; rfl
  · rw [h8.regs, hr]; exact enteredStatus_i _

/-- An IRQ asserted while I is clear takes the place of the fetched instruction (spec R165, R373). -/
theorem exec_irq (i : Instr) (h : s.Interruptible) (hm : s.eng.mode = .none) (hn : ¬s.Masked) :
    ∃ t, exec i s = .next t ∧ s.Entered t Config.vectorIrq ∧ t.draws = s.draws := by
  have h1 : (s.setMode .irq).Interruptible := ⟨⟨h.quiet.noInput, h.quiet.clock, h.quiet.rdy, h.quiet.resb, h.quiet.running⟩, h.solid,
    h.extra, h.pending⟩
  obtain ⟨t, ht, he, hd⟩ := exec_entry (s := s.setMode .irq) i h1 (vector := Config.vectorIrq) rfl
  refine ⟨t, ?_, ⟨he.regs, ⟨he.pushed.first, he.pushed.second, he.pushed.third, he.pushed.elsewhere⟩, he.fetched, he.opcode, he.cycles,
    he.ready, he.irqb, he.parameter⟩, hd⟩
  have hl : latchMode ⟨s.waiSemantics, s.bp.irqb.level⟩ s.regs (s.present i).eng = .irq := by
    simp only [State.Masked, not_or, Bool.not_eq_true] at hn
    exact if_pos ⟨hn.1, hn.2, hm⟩
  have h3 := Holds.cycle_latched (present_holds (i := i) h) h.quiet.running h.extra
  rw [show (s.present i).view.r = s.regs from rfl, show (s.present i).view.e = (s.present i).eng from rfl, hl] at h3
  rw [exec_eq, runInstr, resume] at ht ⊢
  rw [← ht]
  show runCycles (s.eng.extra + 12) (s.present i) = runCycles (s.eng.extra + 12) ((s.present i).setMode .irq)
  rw [show s.eng.extra + 12 = (s.eng.extra + 11) + 1 by rfl]
  simp only [runCycles]
  rw [h3]
  rfl

/-- Where an instruction has left an IRQ that is asserted and not masked, interrupt entry comes next: it is latched already, or it is latched at
the selection edge (spec R165, R180, R373). -/
theorem State.Ran.enters {u : State} {r : Regs} {k : Nat} (h : u.Ran s r k) (hn : ¬s.Masked) :
    ∃ t, step s = .next t ∧ s.Entered t Config.vectorIrq ∧ t.draws = s.draws := by
  rw [step, if_pos h.fetched]
  rcases h.mode with hm | ⟨hm, -⟩
  · exact exec_irq _ h.settled hm hn
  · exact exec_entry _ h.settled (by rw [hm]; rfl)

/-- Where an instruction has left no IRQ asserted, or has left it masked, the next instruction runs. -/
theorem State.Ran.ready {u : State} {r : Regs} {k : Nat} (h : u.Ran s r k) (hm : s.Masked) : s.Ready :=
  ⟨h.settled, h.mode.resolve_right fun h => h.2 hm, hm⟩

end Sys2Proof.Machine
end

