-- ==== Sys2Proof/Laws/Invariant.lean ====
section
/-!
SUPPORT. What one cycle does to the invariant: `Inv` is kept by every cycle, and no cycle faults in a state that has it.
-/

namespace Sys2Proof.Machine

variable {s t : State}

/-! ### What the stages of an edge leave alone -/

/-- Devices, input, the clock and the parameter are as before. -/
structure SameWorld (s t : State) : Prop where
  devices : t.devices = s.devices
  script : t.script = s.script
  clock : t.bp.phi2 = s.bp.phi2
  wai : t.waiSemantics = s.waiSemantics

theorem SameWorld.refl (s : State) : SameWorld s s := ⟨rfl, rfl, rfl, rfl⟩

theorem SameWorld.trans {u : State} (h1 : SameWorld s t) (h2 : SameWorld t u) : SameWorld s u :=
  ⟨h2.devices.trans h1.devices, h2.script.trans h1.script, h2.clock.trans h1.clock, h2.wai.trans h1.wai⟩

theorem sample_world (s : State) : SameWorld s s.sample := by
  unfold State.sample; split <;> (try split) <;> exact ⟨rfl, rfl, rfl, rfl⟩

/-- A capture changes registers and latches, and a branch that is taken schedules extra cycles (spec R166, R167). -/
theorem capture_frame (s : State) : SameWorld s s.capture ∧ ∃ k, s.capture.eng = { s.eng with extra := k } ∧
    (k = s.eng.extra ∨ k ≤ s.eng.extra + 2 ∧ ∃ i, s.eng.pending = some (.instr i) ∧ ∀ c, Running.effect (.instr i) c = c) := by
  have hb : ∀ v, SameWorld s ((s.setD v).branchEval v) ∧ ∃ k, ((s.setD v).branchEval v).eng = { s.eng with extra := k } ∧
      (k = s.eng.extra ∨ k ≤ s.eng.extra + 2 ∧ ∃ i, s.eng.pending = some (.instr i) ∧ ∀ c, Running.effect (.instr i) c = c) := by
    intro v
    unfold State.branchEval
    split
    · rename_i i hi
      cases hc : branchCondition i.mnemonic (s.setD v) with
      | none => exact ⟨⟨rfl, rfl, rfl, rfl⟩, s.eng.extra, rfl, .inl rfl⟩
      | some b =>
        cases b with
        | false => exact ⟨⟨rfl, rfl, rfl, rfl⟩, s.eng.extra, rfl, .inl rfl⟩
        | true =>
          refine ⟨⟨rfl, rfl, rfl, rfl⟩, _, rfl, .inr ⟨?_, i, hi, ?_⟩⟩
          · split <;> simp
          · intro c
            simp only [Running.effect]
            cases hm : i.mnemonic <;> simp [hm, branchCondition] at hc <;> rfl
    · exact ⟨⟨rfl, rfl, rfl, rfl⟩, s.eng.extra, rfl, .inl rfl⟩
  have hc : (SameWorld s s.capture ∧ s.capture.eng = s.eng) ∨ s.capture = (s.setD s.dataBus).branchEval s.dataBus := by
    unfold State.capture
    dsimp only
    split <;> first | exact .inr rfl | exact .inl ⟨⟨rfl, rfl, rfl, rfl⟩, rfl⟩
  rcases hc with ⟨h1, h2⟩ | h
  · exact ⟨h1, s.eng.extra, by rw [h2], .inl rfl⟩
  · rw [h]; exact hb _

theorem select_world (s : State) : SameWorld s s.select := by
  unfold State.select State.beginInstr State.beginEntry
  split <;> (try split) <;> (try dsimp only) <;> (try split) <;> exact ⟨rfl, rfl, rfl, rfl⟩

theorem deferred_world (s : State) : SameWorld s s.deferred := by
  unfold State.deferred
  split
  · split
    · rename_i r _ _
      obtain ⟨_, _, _, h⟩ := effect_frame r s
      rw [h]; exact ⟨rfl, rfl, rfl, rfl⟩
    · exact SameWorld.refl s
  · exact SameWorld.refl s

theorem internal_world (m : Mnemonic) (s : State) : SameWorld s (internal m s) ∧ (internal m s).eng = s.eng := by
  cases m <;> exact ⟨⟨rfl, rfl, rfl, rfl⟩, rfl⟩

/-- Step 6 changes of the engine only PREV, STOPPED and, by the penalty, EXTRA (spec R171, R172). -/
theorem drive_frame (s : State) (c : Cycle) : SameWorld s (s.drive c) ∧ ∃ b k,
    (s.drive c).eng = { s.eng with prevTag := c.data, prevRw := c.rw, stopped := b, extra := k } ∧
      k ≤ s.eng.extra + 1 ∧ (c.data ≠ .data → k = s.eng.extra) := by
  have h1 : SameWorld s (s.driveAddress c.addr) ∧ (s.driveAddress c.addr).eng = s.eng := by
    unfold State.driveAddress; cases c.addr <;> exact ⟨⟨rfl, rfl, rfl, rfl⟩, rfl⟩
  have hdrive : s.drive c = ((((s.driveAddress c.addr).setLines (c.rw == .read) c.sync c.vpb c.mlb).driveData c).penalty c).setPrev
      c.data c.rw := rfl
  have h2 : SameWorld s ((s.driveAddress c.addr).setLines (c.rw == .read) c.sync c.vpb c.mlb) ∧
      ((s.driveAddress c.addr).setLines (c.rw == .read) c.sync c.vpb c.mlb).eng = s.eng := ⟨h1.1.trans ⟨rfl, rfl, rfl, rfl⟩, h1.2⟩
  rw [hdrive]
  generalize (s.driveAddress c.addr).setLines (c.rw == .read) c.sync c.vpb c.mlb = a at h2 ⊢
  have h3 : SameWorld a (a.driveData c) ∧ ∃ b, (a.driveData c).eng = { a.eng with stopped := b } := by
    unfold State.driveData
    split
    · unfold State.afterStatusPush
      split <;> exact ⟨⟨rfl, rfl, rfl, rfl⟩, a.eng.stopped, rfl⟩
    · exact ⟨⟨rfl, rfl, rfl, rfl⟩, a.eng.stopped, rfl⟩
    · split
      · rename_i m _
        exact ⟨(internal_world m a).1, a.eng.stopped, by rw [(internal_world m a).2]⟩
      · exact ⟨SameWorld.refl a, a.eng.stopped, rfl⟩
    · exact ⟨⟨rfl, rfl, rfl, rfl⟩, true, rfl⟩
    · exact ⟨SameWorld.refl a, a.eng.stopped, rfl⟩
  obtain ⟨h3, b, h3e⟩ := h3
  generalize a.driveData c = d at h3 h3e ⊢
  have h4 : SameWorld d (d.penalty c) ∧ ∃ k, (d.penalty c).eng = { d.eng with extra := k } ∧ k ≤ d.eng.extra + 1 ∧
      (c.data ≠ .data → k = d.eng.extra) := by
    unfold State.penalty
    split
    · rename_i hp
      exact ⟨⟨rfl, rfl, rfl, rfl⟩, d.eng.extra + 1, rfl, Nat.le_refl _, fun h => absurd hp.2.1 h⟩
    · exact ⟨SameWorld.refl d, d.eng.extra, rfl, Nat.le_succ _, fun _ => rfl⟩
  obtain ⟨h4, k, h4e, hk1, hk2⟩ := h4
  have hx : d.eng.extra = s.eng.extra := by rw [h3e, h2.2]
  refine ⟨h2.1.trans (h3.trans (h4.trans ⟨rfl, rfl, rfl, rfl⟩)), b, k, ?_, by rw [← hx]; exact hk1, by rw [← hx]; exact hk2⟩
  show { (d.penalty c).eng with prevTag := c.data, prevRw := c.rw } = _
  rw [h4e, h3e, h2.2]

theorem advance_world (s : State) : SameWorld s s.advance.count := by
  have h := advance_count_bp s
  refine ⟨?_, ?_, by rw [h], ?_⟩ <;>
  · show _ = _
    unfold State.count State.advance
    split
    · rfl
    · split
      · rfl
      · split
        · dsimp only; split <;> rfl
        · rfl

/-! ### The engine's control state -/

/-- The invariant of the engine's control state, before a processed edge. -/
structure Control (e : Engine) : Prop where
  index : e.idx < (cyclesOf e.list).length ∨ e.idx = 1
  list : e.list = match e.instr with | .intr => .intr | .instr i => i.list
  pending : e.pending ≠ none → e.idx = 0
  fetch : e.idx = 1 → e.prevTag = .opcode ∧ e.prevRw = .read
  extra : e.extra ≤ 2
  noNmi : e.mode ≠ .nmi
  entry : e.list = .intr → 2 ≤ e.idx → e.mode ≠ .none

theorem State.Inv.control (h : s.Inv) : Control s.eng := ⟨h.index, h.list, h.pending, h.fetch, h.extra, h.noNmi, h.entry⟩

theorem cyclesOf_pos (l : ListName) : 0 < (cyclesOf l).length := Nat.succ_pos _

theorem sample_control (h : Control s.eng) (hx : s.eng.extra = 0) : Control s.sample.eng ∧ s.sample.eng.extra = 0 := by
  unfold State.sample
  split
  · refine ⟨⟨.inl (cyclesOf_pos _), h.list, fun h => absurd rfl h, fun h => absurd h Nat.zero_ne_one, ?_, (nofun), ?_⟩, hx⟩
    · show s.eng.extra ≤ 2; omega
    · intro _ h2; exact absurd h2 (show ¬2 ≤ 0 by decide)
  · split
    · exact ⟨⟨h.index, h.list, h.pending, h.fetch, h.extra, (nofun), (nofun)⟩, hx⟩
    · exact ⟨h, hx⟩

/-- The control state after step 4: IDX is the index of a cycle, and interrupt entry has its cause latched. -/
structure Selected (e : Engine) : Prop where
  index : e.idx < (cyclesOf e.list).length
  list : e.list = match e.instr with | .intr => .intr | .instr i => i.list
  pending : e.pending ≠ none → e.idx = 0
  extra : e.extra ≤ 2
  extraDue : e.extra ≠ 0 → ∃ i, e.pending = some (.instr i) ∧ ∀ c, Running.effect (.instr i) c = c
  noNmi : e.mode ≠ .nmi
  entry : e.list = .intr → 1 ≤ e.idx → e.mode ≠ .none

theorem list_long (i : Instr) (h : (cyclesOf i.list).length ≠ 1) : 1 < (cyclesOf i.list).length := by
  have := cyclesOf_pos i.list; omega

theorem captured_selected (h : Control s.eng) (hx : s.eng.extra = 0) : Selected s.capture.select.eng := by
  obtain ⟨-, k, he, hk⟩ := capture_frame s
  by_cases hi : s.eng.idx = 1
  · have hp : s.eng.pending = none := by
      by_contra hc; exact absurd (h.pending hc) (by omega)
    have hk0 : k = 0 := by
      rcases hk with hk | ⟨-, i, hc, -⟩
      · omega
      · rw [hp] at hc; cases hc
    have hidx : s.capture.eng.idx = 1 := by rw [he]; exact hi
    have hmo : s.capture.eng.mode = s.eng.mode := by rw [he]
    unfold State.select
    rw [if_pos hidx]
    split
    · unfold State.beginInstr
      dsimp only
      split
      · refine ⟨cyclesOf_pos _, rfl, fun _ => rfl, ?_, ?_, ?_, ?_⟩
        · show s.capture.eng.extra ≤ 2; rw [he]; show k ≤ 2; omega
        · intro hc; exact absurd (show s.capture.eng.extra = 0 by rw [he]; exact hk0) hc
        · show s.capture.eng.mode ≠ _; rw [hmo]; exact h.noNmi
        · intro _ hc; exact absurd hc (show ¬1 ≤ 0 by decide)
      · rename_i hl
        refine ⟨?_, rfl, ?_, ?_, ?_, ?_, ?_⟩
        · show s.capture.eng.idx < _; rw [hidx]; exact list_long _ hl
        · intro hc; exact absurd (show s.capture.eng.pending = none by rw [he]; exact hp) hc
        · show s.capture.eng.extra ≤ 2; rw [he]; show k ≤ 2; omega
        · intro hc; exact absurd (show s.capture.eng.extra = 0 by rw [he]; exact hk0) hc
        · show s.capture.eng.mode ≠ _; rw [hmo]; exact h.noNmi
        · intro hc; exact absurd hc (list_ne_intr _)
    · rename_i hm
      unfold State.beginEntry
      refine ⟨?_, rfl, ?_, ?_, ?_, ?_, fun _ _ => hm⟩
      · show s.capture.eng.idx < _; rw [hidx]; exact (show 1 < (cyclesOf .intr).length by decide)
      · intro hc; exact absurd (show s.capture.eng.pending = none by rw [he]; exact hp) hc
      · show s.capture.eng.extra ≤ 2; rw [he]; show k ≤ 2; omega
      · intro hc; exact absurd (show s.capture.eng.extra = 0 by rw [he]; exact hk0) hc
      · show s.capture.eng.mode ≠ _; rw [hmo]; exact h.noNmi
  · have hs : s.capture.select = s.capture := by
      unfold State.select; rw [if_neg (by rw [he]; exact hi)]
    rw [hs, he]
    refine ⟨?_, h.list, h.pending, ?_, ?_, h.noNmi, ?_⟩
    · rcases h.index with h1 | h1
      · exact h1
      · exact absurd h1 hi
    · show k ≤ 2
      rcases hk with hk | ⟨hk, -⟩ <;> omega
    · intro hc
      rcases hk with hk | ⟨-, hk⟩
      · exact absurd (hk.trans hx) hc
      · exact hk
    · intro h1 h2
      exact h.entry h1 (by have : (1 : Nat) ≤ s.eng.idx := h2; omega)

/-- The control state after step 5. -/
structure Driven (e : Engine) : Prop where
  index : e.idx < (cyclesOf e.list).length
  list : e.list = match e.instr with | .intr => .intr | .instr i => i.list
  pending : e.pending = none
  extra : e.extra ≤ 2
  extraDue : e.extra ≠ 0 → e.idx = 0
  noNmi : e.mode ≠ .nmi
  entry : e.list = .intr → 1 ≤ e.idx → e.mode ≠ .none

theorem deferred_driven (h : Selected s.eng) : Driven s.deferred.eng := by
  cases hp : s.eng.pending with
  | none =>
    have : s.deferred = s := by unfold State.deferred; rw [hp]
    rw [this]
    refine ⟨h.index, h.list, hp, h.extra, ?_, h.noNmi, h.entry⟩
    intro hc
    obtain ⟨i, hi, -⟩ := h.extraDue hc
    rw [hp] at hi; cases hi
  | some r =>
    have hi : s.eng.idx = 0 := h.pending (by rw [hp]; simp)
    have : s.deferred = (r.effect s).setPending none := by unfold State.deferred; rw [hp]; simp only [hi, if_true]
    obtain ⟨g, k, m, he⟩ := effect_frame r s
    have hk : k ≤ 2 := by
      by_cases hx : s.eng.extra = 0
      · have := effect_extra r s
        rw [he, hx] at this
        have : k ≤ 0 + 1 := this
        omega
      · obtain ⟨i, hi, hc⟩ := h.extraDue hx
        rw [hp] at hi
        cases hi
        rw [hc] at he
        have : s.eng.extra = k := by rw [he]
        have := h.extra
        omega
    rw [this, he]
    exact ⟨h.index, h.list, rfl, hk, fun _ => hi, h.noNmi, h.entry⟩

/-- Steps 6 and 7. -/
theorem advance_control (h : Driven s.eng) {c : Cycle} (hc : (cyclesOf s.eng.list)[s.eng.idx]? = some c) :
    Control (s.drive c).advance.count.eng := by
  obtain ⟨-, b, k, he, hk1, hk2⟩ := drive_frame s c
  have hk : k ≤ 2 := by
    by_cases hx : s.eng.extra = 0
    · omega
    · have hi := h.extraDue hx
      rw [hi] at hc
      have : c = fetch := (Option.some.inj hc).symm
      have := hk2 (by rw [this]; decide)
      have := h.extra
      omega
  have hidx : (s.drive c).eng.idx = s.eng.idx := by rw [he]
  have hlist : (s.drive c).eng.list = s.eng.list := by rw [he]
  show Control { (s.drive c).advance.eng with cycles := _ }
  unfold State.advance
  split
  · rename_i h0
    rw [hidx] at h0
    rw [h0] at hc
    have : c = fetch := (Option.some.inj hc).symm
    subst this
    refine ⟨.inr rfl, ?_, ?_, ?_, ?_, ?_, ?_⟩
    · show (s.drive fetch).eng.list = match (s.drive fetch).eng.instr with | .intr => .intr | .instr i => i.list
      rw [he]; exact h.list
    · intro hp; exact absurd (show (s.drive fetch).eng.pending = none by rw [he]; exact h.pending) hp
    · intro _
      show (s.drive fetch).eng.prevTag = _ ∧ (s.drive fetch).eng.prevRw = _
      rw [he]; exact ⟨rfl, rfl⟩
    · show (s.drive fetch).eng.extra ≤ 2; rw [he]; exact hk
    · show (s.drive fetch).eng.mode ≠ _; rw [he]; exact h.noNmi
    · intro _ h2; exact absurd h2 (by show ¬ 2 ≤ 1; decide)
  · rename_i h0
    rw [hidx] at h0
    split
    · rename_i hw
      refine ⟨?_, ?_, ?_, ?_, ?_, ?_, ?_⟩
      · left; show (s.drive c).eng.idx < (cyclesOf (s.drive c).eng.list).length; rw [hidx, hlist]; exact h.index
      · show (s.drive c).eng.list = match (s.drive c).eng.instr with | .intr => .intr | .instr i => i.list
        rw [he]; exact h.list
      · intro hp; exact absurd (show (s.drive c).eng.pending = none by rw [he]; exact h.pending) hp
      · intro h1
        simp only [State.waiting, Bool.and_eq_true, beq_iff_eq] at hw
        have h2 := hw.1.1.2
        exact absurd ((show (s.drive c).eng.idx = 1 from h1).symm.trans h2) (by decide)
      · show (s.drive c).eng.extra ≤ 2; rw [he]; exact hk
      · show (s.drive c).eng.mode ≠ _; rw [he]; exact h.noNmi
      · intro h1 h2
        show (s.drive c).eng.mode ≠ _
        rw [he]
        exact h.entry (hlist.symm.trans h1) (by have : 2 ≤ (s.drive c).eng.idx := h2; omega)
    · split
      · have key : ∀ m : Mode, m ≠ .nmi → ∀ n : Nat,
            Control { (s.drive c).eng with idx := 0, pending := some (s.drive c).eng.instr, mode := m, cycles := n } := by
          intro m hm n
          refine ⟨.inl (cyclesOf_pos _), ?_, fun _ => rfl, ?_, ?_, hm, ?_⟩
          · show (s.drive c).eng.list = match (s.drive c).eng.instr with | .intr => .intr | .instr i => i.list
            rw [he]; exact h.list
          · intro h1; exact absurd h1 Nat.zero_ne_one
          · show (s.drive c).eng.extra ≤ 2; rw [he]; exact hk
          · intro _ h2; exact absurd h2 (show ¬2 ≤ 0 by decide)
        dsimp only
        split
        · exact key .none (nofun) _
        · exact key (s.drive c).eng.mode (by rw [he]; exact h.noNmi) _
      · rename_i _ hlast
        rw [hidx, hlist] at hlast
        refine ⟨?_, ?_, ?_, ?_, ?_, ?_, ?_⟩
        · left
          show (s.drive c).eng.idx + 1 < (cyclesOf (s.drive c).eng.list).length
          rw [hidx, hlist]
          have := h.index
          omega
        · show (s.drive c).eng.list = match (s.drive c).eng.instr with | .intr => .intr | .instr i => i.list
          rw [he]; exact h.list
        · intro hp; exact absurd (show (s.drive c).eng.pending = none by rw [he]; exact h.pending) hp
        · intro h1
          have : (s.drive c).eng.idx + 1 = 1 := h1
          omega
        · show (s.drive c).eng.extra ≤ 2; rw [he]; exact hk
        · show (s.drive c).eng.mode ≠ _; rw [he]; exact h.noNmi
        · intro h1 h2
          show (s.drive c).eng.mode ≠ _
          rw [he]
          exact h.entry (hlist.symm.trans h1) (by omega)

/-- Only the lists of BRK and of interrupt entry read a vector (spec R127). -/
theorem vector_list {l : ListName} {c : Cycle} (hc : c ∈ cyclesOf l) (hv : c.addr = .vecLo ∨ c.addr = .vecHi) : l = .brk ∨ l = .intr := by
  have key : (cyclesOf l).all (fun c => c.addr != .vecLo && c.addr != .vecHi || l == .brk || l == .intr) = true := by cases l <;> rfl
  have := List.all_eq_true.1 key c hc
  simp only [Bool.or_eq_true, beq_iff_eq] at this
  rcases this with (this | this) | this
  · rcases hv with hv | hv <;> rw [hv] at this <;> exact absurd this (by decide)
  · exact .inl this
  · exact .inr this

/-! ### One edge, one cycle -/

theorem next_ne_fault (t : State) (f : Fault) : (.next t : Outcome) ≠ .fault f := by intro h; cases h

theorem refused_ne_fault (r : Refusal) (f : Fault) : (.refused r : Outcome) ≠ .fault f := by intro h; cases h

theorem refused_ne_next (r : Refusal) (t : State) : (.refused r : Outcome) ≠ .next t := by intro h; cases h

theorem next_inj {t u : State} (h : (.next t : Outcome) = .next u) : t = u := Host.Outcome.next.inj h

/-- An edge of a state with the invariant does not fault, and keeps the engine's part of it. -/
theorem edge_control (h : Control s.eng) :
    (∀ f, s.cpuEdge ≠ .fault f) ∧ ∀ t, s.cpuEdge = .next t → Control t.eng ∧ SameWorld s t := by
  unfold State.cpuEdge
  split
  · exact ⟨next_ne_fault _, fun t ht => by rw [← next_inj ht]; exact ⟨h, SameWorld.refl s⟩⟩
  · split
    · exact ⟨next_ne_fault _, fun t ht => by rw [← next_inj ht]; exact ⟨h, SameWorld.refl s⟩⟩
    · have h0 : Control (s.setStopped false).eng := ⟨h.index, h.list, h.pending, h.fetch, h.extra, h.noNmi, h.entry⟩
      have hw0 : SameWorld s (s.setStopped false) := ⟨rfl, rfl, rfl, rfl⟩
      generalize s.setStopped false = a at h0 hw0
      unfold State.tick
      split
      · rename_i hx
        refine ⟨next_ne_fault _, fun t ht => ?_⟩
        rw [← next_inj ht]
        refine ⟨⟨h0.index, h0.list, h0.pending, h0.fetch, ?_, h0.noNmi, h0.entry⟩, hw0.trans ⟨rfl, rfl, rfl, rfl⟩⟩
        show a.eng.extra - 1 ≤ 2
        have := h0.extra
        omega
      · rename_i hx
        have hx : a.eng.extra = 0 := by omega
        obtain ⟨h1, hx1⟩ := sample_control h0 hx
        have h2 := captured_selected h1 hx1
        have h3 := deferred_driven h2
        have hw : SameWorld s a.sample.capture.select.deferred := hw0.trans ((sample_world a).trans ((capture_frame _).1.trans
          ((select_world _).trans (deferred_world _))))
        generalize a.sample.capture.select.deferred = b at h3 hw
        unfold State.runCycle
        have hget : (cyclesOf b.eng.list)[b.eng.idx]? = some ((cyclesOf b.eng.list)[b.eng.idx]'h3.index) :=
          List.getElem?_eq_getElem h3.index
        generalize (cyclesOf b.eng.list)[b.eng.idx]'h3.index = c at hget
        rw [hget]
        dsimp only
        split
        · rename_i hv
          exfalso
          obtain ⟨hv1, hv2⟩ := hv
          unfold State.vectorAddr at hv2
          split at hv2
          · cases hv2
          · rename_i hb
            have hm : b.eng.mode = .none := by cases hm : b.eng.mode <;> rw [hm] at hv2 <;> first | rfl | cases hv2
            have hvec : b.eng.list = .intr ∧ 1 ≤ b.eng.idx := by
              refine ⟨(vector_list (List.mem_of_getElem? hget) hv1).resolve_left hb, ?_⟩
              rcases Nat.eq_zero_or_pos b.eng.idx with h0 | h0
              · rw [h0] at hget
                have : c = fetch := (Option.some.inj hget).symm
                rw [this] at hv1
                rcases hv1 with h | h <;> cases h
              · exact h0
            exact h3.entry hvec.1 hvec.2 hm
        · split
          · exact ⟨refused_ne_fault _, fun t ht => absurd ht (refused_ne_next _ _)⟩
          · refine ⟨next_ne_fault _, fun t ht => ?_⟩
            rw [← next_inj ht]
            exact ⟨advance_control h3 hget, hw.trans ((drive_frame b c).1.trans (advance_world _))⟩

/-! ### The whole invariant -/

/-- The memories hold their form and the environment brings only memories that do. -/
def WorldWf (s : State) : Prop :=
  (∀ d ∈ s.devices, Memory.wf d.cells = true) ∧ ∀ actions ∈ s.script, ∀ a ∈ actions, EnvAction.wf a = true

theorem act_inv {a : EnvAction} (ha : EnvAction.wf a = true) (h : ∀ d ∈ s.devices, Memory.wf d.cells = true) :
    (s.act a).eng = s.eng ∧ (s.act a).script = s.script ∧ (s.act a).bp.phi2 = s.bp.phi2 ∧
      ∀ d ∈ (s.act a).devices, Memory.wf d.cells = true := by
  cases a with
  | attach d =>
    unfold State.act
    dsimp only
    split
    · exact ⟨rfl, rfl, rfl, h⟩
    · refine ⟨rfl, rfl, rfl, ?_⟩
      intro e he
      rcases List.mem_append.1 he with he | he
      · exact h e he
      · rw [List.mem_singleton.1 he]; exact ha
  | detach id =>
    refine ⟨rfl, rfl, rfl, ?_⟩
    intro e he
    exact h e (List.mem_filter.1 he).1
  | master a v r => unfold State.act; dsimp only; split <;> exact ⟨rfl, rfl, rfl, h⟩
  | _ => exact ⟨rfl, rfl, rfl, h⟩

theorem acts_inv (actions : List EnvAction) (ha : ∀ a ∈ actions, EnvAction.wf a = true) (h : ∀ d ∈ s.devices, Memory.wf d.cells = true) :
    (actions.foldl State.act s).eng = s.eng ∧ (actions.foldl State.act s).script = s.script ∧
      (actions.foldl State.act s).bp.phi2 = s.bp.phi2 ∧ ∀ d ∈ (actions.foldl State.act s).devices, Memory.wf d.cells = true := by
  induction actions generalizing s with
  | nil => exact ⟨rfl, rfl, rfl, h⟩
  | cons a rest ih =>
    obtain ⟨h1, h2, h3, h4⟩ := act_inv (ha a (List.mem_cons_self ..)) h
    obtain ⟨h5, h6, h7, h8⟩ := ih (s := s.act a) (fun b hb => ha b (List.mem_cons_of_mem _ hb)) h4
    exact ⟨h5.trans h1, h6.trans h2, h7.trans h3, h8⟩

theorem takeInput_inv (h : WorldWf s) : s.takeInput.eng = s.eng ∧ s.takeInput.bp.phi2 = s.bp.phi2 ∧ WorldWf s.takeInput := by
  unfold State.takeInput
  split
  · exact ⟨rfl, rfl, h⟩
  · rename_i actions rest hs
    have hm : actions ∈ s.script := by rw [hs]; exact List.mem_cons_self ..
    obtain ⟨h1, h2, h3, h4⟩ := acts_inv (s := { s with script := rest }) actions (h.2 actions hm) h.1
    refine ⟨h1, h3, h4, ?_⟩
    intro acts ha
    rw [h2] at ha
    exact h.2 acts (by rw [hs]; exact List.mem_cons_of_mem _ ha)

theorem rises_inv (s : State) (h : WorldWf s) : s.clockRises.eng = s.eng ∧ s.clockRises.bp.phi2.level = true ∧ WorldWf s.clockRises := by
  unfold State.clockRises State.deviceEdge
  dsimp only
  split
  · exact ⟨rfl, rfl, h⟩
  · exact ⟨rfl, rfl, fun d hd => takeAll_wf _ _ h.1 d hd, h.2⟩

/-- A cycle from a state with the invariant does not fault, and leaves a state with it. -/
theorem cycle_inv (h : s.Inv) : (∀ f, s.cycle ≠ .fault f) ∧ ∀ t, s.cycle = .next t → t.Inv := by
  obtain ⟨h1, h2, h3⟩ := takeInput_inv (s := s) h.memory
  have hc : Control (s.takeInput.setPhi2 false).eng := by
    show Control s.takeInput.eng; rw [h1]; exact h.control
  have hphi : s.takeInput.bp.phi2.level = true := by rw [h2]; exact h.clock
  obtain ⟨h4, h5⟩ := edge_control hc
  rw [show s.cycle = (match (s.takeInput.setPhi2 false).cpuEdge with
    | .next t => .next t.clockRises
    | .fault f => .fault f
    | .refused r => .refused r) by simp only [State.cycle, State.clockFalls, hphi, if_true] <;> rfl]
  cases he : (s.takeInput.setPhi2 false).cpuEdge with
  | fault f => exact absurd he (h4 f)
  | refused r => exact ⟨refused_ne_fault _, fun t ht => absurd ht (refused_ne_next _ _)⟩
  | next u =>
    refine ⟨next_ne_fault _, fun t ht => ?_⟩
    rw [← next_inj ht]
    obtain ⟨h6, h7⟩ := h5 u he
    have h8 : WorldWf u := by
      unfold WorldWf; rw [h7.devices, h7.script]; exact h3
    obtain ⟨h9, h10, h11⟩ := rises_inv u h8
    exact ⟨h9 ▸ h6.index, h9 ▸ h6.list, h9 ▸ h6.pending, h9 ▸ h6.fetch, h9 ▸ h6.extra, h9 ▸ h6.noNmi, h9 ▸ h6.entry, h10, h11⟩

end Sys2Proof.Machine
end

