-- ==== Sys2Proof/Laws/Lines.lean ====
section
/-!
SUPPORT. Laws of the lines of the Backplane: where no listener acts on the line that calls it, a dispatch calls the snapshot once and
`set`, `vote` and `detach` are what it comes to.
-/

namespace Sys2Proof.Machine

/-- A dispatch whose listeners do nothing calls each one once, in order, and leaves the line as it was (spec R62). -/
theorem dispatchWith_inert {σ α : Type} (listeners : σ → List Nat) (apply : σ → α → σ × Option Edge) (line : σ) (e : Edge) (ls : List Nat)
    (fuel : Nat) (h : ls.length < fuel) :
    dispatchWith listeners apply (fun _ _ => []) fuel line (notifyAll ls e) = (line, ls.map fun l => ⟨l, e⟩, []) := by
  induction ls generalizing fuel with
  | nil =>
    cases fuel with
    | zero => exact absurd h (Nat.not_lt_zero _)
    | succ fuel => rfl
  | cons l ls ih =>
    cases fuel with
    | zero => exact absurd h (Nat.not_lt_zero _)
    | succ fuel =>
      have h1 := ih fuel (Nat.lt_of_succ_lt_succ h)
      simp only [notifyAll, List.map_cons, dispatchWith, List.map_nil, List.nil_append] at h1 ⊢
      rw [h1]

/-- An act with no edge changes the line and calls nobody; an act with an edge calls the snapshot (spec R62). -/
theorem dispatchWith_act {σ α : Type} (listeners : σ → List Nat) (apply : σ → α → σ × Option Edge) (line : σ) (a : α) (fuel : Nat)
    (h : (listeners (apply line a).1).length + 1 < fuel) :
    dispatchWith listeners apply (fun _ _ => []) fuel line [.act a] =
      ((apply line a).1, (match (apply line a).2 with
        | none => []
        | some e => (listeners (apply line a).1).map fun l => ⟨l, e⟩), []) := by
  obtain ⟨fuel, rfl⟩ : ∃ f, fuel = f + 1 := ⟨fuel - 1, by omega⟩
  cases hr : apply line a with
  | mk line' edge =>
    rw [hr] at h
    cases edge with
    | none =>
      simp only [dispatchWith, hr]
      obtain ⟨fuel, rfl⟩ : ∃ f, fuel = f + 1 := ⟨fuel - 1, by simp only at h; omega⟩
      rfl
    | some e =>
      simp only [dispatchWith, hr, List.append_nil]
      exact dispatchWith_inert listeners apply line' e _ fuel (by simp only at h; omega)

/-- `value(b)` on a Signal, as a dispatch (spec R62). -/
theorem Signal.dispatch_set (g : Signal) (b : Bool) (fuel : Nat) (h : g.listeners.length + 1 < fuel) :
    Signal.dispatch (fun _ _ => []) fuel g [.act (.set b)] = ((g.set b).1, (g.set b).2, []) := by
  unfold Signal.dispatch
  rw [dispatchWith_act _ _ _ _ _ h]
  by_cases hb : b = g.level <;> simp [Signal.apply, Signal.set, hb]

/-- `value(drv, b)` on an OpenCollector, as a dispatch (spec R65). -/
theorem OpenCollector.dispatch_vote (oc : OpenCollector) (drv : Nat) (b : Bool) (fuel : Nat) (h : oc.listeners.length + 1 < fuel) :
    OpenCollector.dispatch (fun _ _ => []) fuel oc [.act (.vote drv b)] = ((oc.vote drv b).1, (oc.vote drv b).2, []) := by
  unfold OpenCollector.dispatch
  rw [dispatchWith_act _ _ _ _ _ h]
  by_cases hl : (oc.vote drv b).1.level = oc.level <;>
    simp [OpenCollector.apply, OpenCollector.edgeFrom, OpenCollector.vote, OpenCollector.recompute] at hl ⊢ <;> simp [hl]

/-- `detach(drv)` on an OpenCollector, as a dispatch (spec R65). -/
theorem OpenCollector.dispatch_detach (oc : OpenCollector) (drv : Nat) (fuel : Nat) (h : oc.listeners.length + 1 < fuel) :
    OpenCollector.dispatch (fun _ _ => []) fuel oc [.act (.detach drv)] = ((oc.detach drv).1, (oc.detach drv).2, []) := by
  unfold OpenCollector.dispatch
  rw [dispatchWith_act _ _ _ _ _ h]
  by_cases hl : (oc.detach drv).1.level = oc.level <;>
    simp [OpenCollector.apply, OpenCollector.edgeFrom, OpenCollector.detach, OpenCollector.recompute] at hl ⊢ <;> simp [hl]

/-! ### Composition -/

/-- More fuel than a dispatch needs changes nothing. -/
theorem dispatchWith_more {σ α : Type} {listeners : σ → List Nat} {apply : σ → α → σ × Option Edge} {behaviour : Nat → Edge → List α}
    {n : Nat} {line line' : σ} {todo : List (LineTask α)} {calls : List Call}
    (h : dispatchWith listeners apply behaviour n line todo = (line', calls, [])) (m : Nat) :
    dispatchWith listeners apply behaviour (n + m) line todo = (line', calls, []) := by
  induction n generalizing line todo calls with
  | zero =>
    cases h
    cases m <;> rfl
  | succ n ih =>
    rw [Nat.succ_add]
    cases todo with
    | nil => exact h
    | cons task rest =>
      cases task with
      | notify l e =>
        simp only [dispatchWith] at h ⊢
        obtain ⟨h1, h2, h3⟩ := by simpa only [Prod.mk.injEq] using h
        rw [ih (Prod.ext h1 (Prod.ext rfl h3))]
        simp only [Prod.mk.injEq, and_true, true_and]
        exact h2
      | act a =>
        simp only [dispatchWith] at h ⊢
        split <;> rename_i hr <;> simp only [hr] at h <;> exact ih h

/-- A dispatch that runs to its end leaves the line to what comes after it (spec R63). -/
theorem dispatchWith_append {σ α : Type} {listeners : σ → List Nat} {apply : σ → α → σ × Option Edge} {behaviour : Nat → Edge → List α}
    {n m : Nat} {line line1 line2 : σ} {todo rest : List (LineTask α)} {calls calls' : List Call}
    (h : dispatchWith listeners apply behaviour n line todo = (line1, calls, []))
    (h' : dispatchWith listeners apply behaviour m line1 rest = (line2, calls', [])) :
    dispatchWith listeners apply behaviour (n + m) line (todo ++ rest) = (line2, calls ++ calls', []) := by
  induction n generalizing line todo calls with
  | zero =>
    cases h
    rw [Nat.zero_add]
    exact h'
  | succ n ih =>
    cases todo with
    | nil =>
      cases h
      rw [Nat.add_comm]
      exact dispatchWith_more h' _
    | cons task todo =>
      rw [Nat.succ_add]
      cases task with
      | notify l e =>
        simp only [dispatchWith, List.cons_append] at h ⊢
        obtain ⟨h1, h2, h3⟩ := by simpa only [Prod.mk.injEq] using h
        rw [← List.append_assoc, ih (Prod.ext h1 (Prod.ext rfl h3)), ← h2]
        rfl
      | act a =>
        simp only [dispatchWith, List.cons_append] at h ⊢
        split <;> rename_i hr <;> simp only [hr] at h
        · exact ih h
        · rw [← List.append_assoc]
          exact ih h

end Sys2Proof.Machine
end

