-- ==== Sys2Proof/Laws/Steps.lean ====
section
/-!
SUPPORT. What a step is: the run of an instruction is the engine's run on from the state it is called in, and the reset sequence, run from
power-on, gives `State.reset`.
-/

namespace Sys2Proof.Machine

variable {s t : State}

theorem opcode_decodeOpcode (b : Byte) : (decodeOpcode b).opcode = b := by
  have key : ∀ n : Fin 256, (decodeOpcode (BitVec.ofFin n)).opcode = BitVec.ofFin n := by decide +kernel
  exact key b.toFin

/-- Where an opcode has been fetched, presenting it again changes nothing. -/
theorem present_self (h : s.fetched = true) : s.present (decodeOpcode s.dataBus) = s := by
  simp only [State.fetched, Bool.and_eq_true, beq_iff_eq, decide_eq_true_eq] at h
  obtain ⟨⟨⟨h1, -⟩, h3⟩, h4⟩ := h
  unfold State.present
  rw [opcode_decodeOpcode]
  cases s with
  | mk r l e bp ds w sc d =>
    cases e with
    | mk li idx ins pt pr m x p st cy =>
      simp only at h1 h3 h4
      subst h1 h3 h4
      rfl

/-- Every step is the engine's run to where it pauses. -/
theorem step_eq_resume (s : State) : step s = resume s := by
  unfold step
  split
  · rename_i h
    rw [exec_eq, runInstr, present_self h]
  · rfl

/-- A run of cycles from a state with the invariant does not fault, and ends in a state with it. -/
theorem runCycles_inv (fuel : Nat) (h : s.Inv) :
    (∀ f, runCycles fuel s ≠ .fault f) ∧ ∀ t, runCycles fuel s = .next t → t.Inv := by
  induction fuel generalizing s with
  | zero => exact ⟨next_ne_fault _, fun t ht => next_inj ht ▸ h⟩
  | succ fuel ih =>
    obtain ⟨h1, h2⟩ := cycle_inv h
    unfold runCycles
    cases hc : s.cycle with
    | fault f => exact absurd hc (h1 f)
    | refused r => exact ⟨refused_ne_fault _, fun t ht => absurd ht (refused_ne_next _ _)⟩
    | next u =>
      dsimp only
      split
      · exact ⟨next_ne_fault _, fun t ht => next_inj ht ▸ h2 u hc⟩
      · exact ih (h2 u hc)

/-- `n` cycles, one after the other. -/
def cyclesRun (n : Nat) (s : State) : Outcome :=
  match n with
  | 0 => .next s
  | n + 1 =>
    match s.cycle with
    | .next t => cyclesRun n t
    | .fault f => .fault f
    | .refused r => .refused r

/-- The state right after reset is what the seven cycles of the reset sequence leave, from power-on, with RESB asserted at the first edge
alone, whatever `wai_semantics` is (spec R8, R46, R400). -/
theorem reset_sequence (wai : WaiSemantics) :
    cyclesRun 7 { State.powerOnWith wai with script := [[.reset true], [.reset false]] } = .next (State.resetWith wai) := by
  have key : (match cyclesRun 7 { State.powerOnWith wai with script := [[.reset true], [.reset false]] } with
    | .next t => decide (t = State.resetWith wai)
    | _ => false) = true := by cases wai <;> decide +kernel
  split at key
  · rename_i t ht
    rw [ht, of_decide_eq_true key]
  · cases key

/-- Placing an instruction with `withFetchWord` makes a state in which its opcode has been fetched. -/
theorem withFetchWord_fetched (s : State) (nbits w : Nat) : (s.withFetchWord nbits w).fetched = true := by
  simp [State.withFetchWord, tableBytes, State.fetched, State.load, State.setDevices, State.setData, State.setIdx, State.setPrev,
    State.setExtra]

end Sys2Proof.Machine
end

