-- ==== Sys2Proof/Laws/Meanings.lean ====
section
/-!
SUPPORT. What a whole instruction of each shape does: one that reads an operand, one that only takes its time, one that stores, one that
modifies memory. Each says what the instruction leaves in terms of its deferred effect.
-/

namespace Sys2Proof.Machine

variable {s : State} {i : Instr}

theorem noBranch_of {m : Mnemonic} (h : ∀ st, branchCondition m st = none) (hm : i.mnemonic = m) : NoBranch (.instr i) := by
  intro st; rw [hm, h]

theorem plain_of_readList (h : readList i.list = true) : plainList i.list = true := by
  revert h; cases i.list <;> decide

theorem plain_of_idleList (h : idleList i.list = true) : plainList i.list = true := by
  revert h; cases i.list <;> decide

theorem plain_of_storeList (h : storeList i.list = true) : plainList i.list = true := by
  revert h; cases i.list <;> decide

theorem plain_of_rmwList (h : rmwList i.list = true) : plainList i.list = true := by
  revert h; cases i.list <;> decide

theorem not_wai_of_readList (h : readList i.list = true) : i ≠ .wai := by rintro rfl; exact absurd h (by decide)
theorem not_wai_of_idleList (h : idleList i.list = true) : i ≠ .wai := by rintro rfl; exact absurd h (by decide)
theorem not_wai_of_storeList (h : storeList i.list = true) : i ≠ .wai := by rintro rfl; exact absurd h (by decide)
theorem not_wai_of_rmwList (h : rmwList i.list = true) : i ≠ .wai := by rintro rfl; exact absurd h (by decide)

/-- An instruction that reads an operand: its effect runs on a state `c` that has the operand in D and PC at the next instruction. -/
theorem exec_read (h : s.Ready) (hl : readList i.list = true) (hb : NoBranch (.instr i)) :
    ∃ a c t, s.effAddr i.list = some a ∧ c.regs = { s.regs with pc := s.nextPc i } ∧ c.latch.d = s.peek a ∧ c.eng.extra = 0 ∧
      c.draws = s.draws ∧ exec i s = .next t ∧
      s.Ran t (effect i.mnemonic i.list c).regs
        (baseCycles i + (s.pageCrossed i.list).toNat + (effect i.mnemonic i.list c).eng.extra) ∧
      s.Kept t ∧ t.draws = (effect i.mnemonic i.list c).draws := by
  obtain ⟨a, l, ha, hrun⟩ := run_read h hl
  obtain ⟨c, t, h1, h2, h3, h4, h5, h6, h7, h8⟩ := exec_plain h (plain_of_readList hl) hb hrun
    (by cases s.pageCrossed i.list <;> decide) (.inr rfl) (h.masked.imp_right .inl) (fun hw => absurd hw (not_wai_of_readList hl))
  exact ⟨a, c, t, ha, h1, by rw [h2]; rfl, h3, h4, h5, h6, kept_of_devices h.solid h7, h8⟩

/-- An instruction that reads nothing it uses. -/
theorem exec_idle (h : s.Ready) (hl : idleList i.list = true) (hb : NoBranch (.instr i)) :
    ∃ c t, c.regs = { s.regs with pc := s.nextPc i } ∧ c.eng.extra = 0 ∧ c.draws = s.draws ∧ exec i s = .next t ∧
      s.Ran t (effect i.mnemonic i.list c).regs (baseCycles i + (effect i.mnemonic i.list c).eng.extra) ∧ s.Kept t := by
  obtain ⟨l, v, hrun⟩ := run_idle h hl
  obtain ⟨c, t, h1, h2, h3, h4, h5, h6, h7, -⟩ := exec_plain h (plain_of_idleList hl) hb hrun (by decide) (.inl rfl)
    (h.masked.imp_right .inl)
    (fun hw => absurd hw (not_wai_of_idleList hl))
  exact ⟨c, t, h1, h3, h4, h5, h6, kept_of_devices h.solid h7⟩

/-- A store. -/
theorem exec_store (h : s.Ready) (hl : storeList i.list = true) (hm : i.mnemonic = .sta ∨ i.mnemonic = .stx ∨ i.mnemonic = .sty ∨
    i.mnemonic = .stz) : ∃ a t, s.effAddr i.list = some a ∧ exec i s = .next t ∧
      s.Ran t { s.regs with pc := s.nextPc i } (baseCycles i) ∧ s.Stored t a (storedByte i.mnemonic s.regs) := by
  obtain ⟨a, l, ha, hrun⟩ := run_store h hl hm
  have hb : NoBranch (.instr i) := by intro st; rcases hm with hm | hm | hm | hm <;> rw [hm] <;> rfl
  have he : ∀ c, effect i.mnemonic i.list c = c := by intro c; rcases hm with hm | hm | hm | hm <;> rw [hm] <;> rfl
  obtain ⟨c, t, h1, h2, h3, h4, h5, h6, h7, -⟩ := exec_plain h (plain_of_storeList hl) hb hrun (by decide) (.inl rfl)
    (h.masked.imp_right .inl)
    (fun hw => absurd hw (not_wai_of_storeList hl))
  rw [he, h1, h3] at h6
  exact ⟨a, t, ha, h5, h6, stored_of_takeAll h.solid h7⟩

/-- A read-modify-write of memory. -/
theorem exec_rmw (h : s.Ready) (hl : rmwList i.list = true) (hm : rmwMnemonic i.mnemonic = true) :
    ∃ a t, s.effAddr i.list = some a ∧ exec i s = .next t ∧
      s.Ran t { s.regs with pc := s.nextPc i, p := modifiedStatus i.mnemonic s.regs (s.peek a) } (baseCycles i) ∧
      s.Stored t a (modified i.mnemonic s.regs (s.peek a)) := by
  obtain ⟨a, l, ha, hrun⟩ := run_rmw h hl hm
  have hni : i.list ≠ .imp := by intro hc; rw [hc] at hl; exact absurd hl (by decide)
  have hb : NoBranch (.instr i) := by
    intro st; cases hn : i.mnemonic <;> rw [hn] at hm <;> first | rfl | exact absurd hm (by simp [rmwMnemonic])
  have he : ∀ c, effect i.mnemonic i.list c = c := by
    intro c; cases hn : i.mnemonic <;> rw [hn] at hm <;>
      first | rfl | (simp [effect, hni]; done) | simp [rmwMnemonic] at hm
  obtain ⟨c, t, h1, h2, h3, h4, h5, h6, h7, -⟩ := exec_plain h (plain_of_rmwList hl) hb hrun (by decide) (.inl rfl)
    (h.masked.imp_right fun hm => .inl ((modifiedStatus_i _ _ _).trans hm))
    (fun hw => absurd hw (not_wai_of_rmwList hl))
  rw [he, h1, h3] at h6
  exact ⟨a, t, ha, h5, h6, stored_of_takeAll h.solid h7⟩

end Sys2Proof.Machine
end

