-- ==== Sys2Proof/Laws/Observe.lean ====
section
/-!
SUPPORT. Laws of the bus trace: the kind of an edge says what the engine does on it, and the trace has a row for each processed edge.
-/

namespace Sys2Proof.Machine

variable {s t : State} {n : Nat}

/-- On an ignored edge only the clock changes (spec R161). -/
theorem clockFalls_ignored (h : s.edgeKind = .ignored) : s.clockFalls = .next (if s.bp.phi2.level then s.setPhi2 false else s) := by
  have hi : s.bp.phi2.level = false ∨ s.bp.rdy.level = false ∨ s.eng.stopped = true ∧ s.bp.resb.level = true := by
    unfold State.edgeKind at h
    split at h
    · assumption
    · split at h <;> cases h
  unfold State.clockFalls
  cases hp : s.bp.phi2.level with
  | false => rfl
  | true =>
    simp only [if_true]
    rcases hi with hi | hi | hi
    · rw [hp] at hi; cases hi
    · exact if_pos hi
    · by_cases hr : (s.setPhi2 false).bp.rdy.level = false
      · exact if_pos hr
      · exact (if_neg hr).trans (if_pos hi)

/-- On a processed edge the CPU's step 1 decides what happens: PHI2 falls, and `tick` runs with the CPU started (spec R161). -/
theorem clockFalls_processed (h : s.edgeKind ≠ .ignored) : s.clockFalls = ((s.setPhi2 false).setStopped false).tick := by
  have hi : ¬(s.bp.phi2.level = false ∨ s.bp.rdy.level = false ∨ s.eng.stopped = true ∧ s.bp.resb.level = true) := by
    intro hi
    exact h (if_pos hi)
  simp only [not_or, Bool.not_eq_false] at hi
  unfold State.clockFalls
  rw [if_pos hi.1]
  exact (if_neg (by rw [show (s.setPhi2 false).bp.rdy = s.bp.rdy from rfl, hi.2.1]; decide)).trans (if_neg hi.2.2)

/-- On an extra edge one extra cycle is consumed and counted, and nothing is driven (spec R163). -/
theorem clockFalls_extra (h : s.edgeKind = .extra) :
    s.clockFalls = .next (((s.setPhi2 false).setStopped false).setExtra (s.eng.extra - 1)).count := by
  rw [clockFalls_processed (by rw [h]; decide)]
  refine if_pos (show 0 < s.eng.extra from ?_)
  unfold State.edgeKind at h
  split at h
  · cases h
  · split at h
    · assumption
    · cases h

/-- On a driven edge steps 2 to 7 run (spec R164 to R177). -/
theorem clockFalls_driven (h : s.edgeKind = .driven) :
    s.clockFalls = ((s.setPhi2 false).setStopped false).sample.capture.select.deferred.runCycle := by
  rw [clockFalls_processed (by rw [h]; decide)]
  refine if_neg (show ¬0 < s.eng.extra from ?_)
  unfold State.edgeKind at h
  split at h
  · cases h
  · split at h
    · cases h
    · assumption

/-- An ignored edge has no row in the trace (spec R161, R182). -/
theorem trace_ignored (hk : s.takeInput.edgeKind = .ignored) (h : s.cycle = .next t) : trace (n + 1) s = trace n t := by
  simp [trace, edges, h, hk]

/-- A processed edge has a row, with CYCLES as it was before the edge (spec R182). -/
theorem trace_processed (hk : s.takeInput.edgeKind ≠ .ignored) (h : s.cycle = .next t) :
    trace (n + 1) s = t.busCycle s.eng.cycles :: trace n t := by
  simp [trace, edges, h, hk]

/-- A driven edge, and no other, is a bus cycle that the CPU drives (spec R182). -/
theorem drivenCycles_succ (h : s.cycle = .next t) :
    drivenCycles (n + 1) s = (if s.takeInput.edgeKind = .driven then [t.busCycle s.eng.cycles] else []) ++ drivenCycles n t := by
  by_cases hk : s.takeInput.edgeKind = .driven <;> simp [drivenCycles, edges, h, hk]

end Sys2Proof.Machine
end

