-- ==== Sys2Proof/Laws/PerInstr.lean ====
section
/-!
SUPPORT. Laws made per instruction: each opcode's encoding reads back as the instruction it stands for, on the list and with the format the
matrix gives it (spec R135).
-/

namespace Sys2Proof.Laws.RoundTrip

/-- The opcode byte of an instruction decodes to it, and the construction of R132 to R134 gives that byte the instruction's mnemonic and
cycle list. -/
def Statement (i : Instr) : Prop := decodeOpcode i.opcode = i ∧ constructed i.opcode = some (i.mnemonic, i.list)

theorem ldaIndX : Statement .ldaIndX := ⟨rfl, rfl⟩
theorem ldaZp : Statement .ldaZp := ⟨rfl, rfl⟩
theorem ldaImm : Statement .ldaImm := ⟨rfl, rfl⟩
theorem ldaAbs : Statement .ldaAbs := ⟨rfl, rfl⟩
theorem ldaIndY : Statement .ldaIndY := ⟨rfl, rfl⟩
theorem ldaInd : Statement .ldaInd := ⟨rfl, rfl⟩
theorem ldaZpX : Statement .ldaZpX := ⟨rfl, rfl⟩
theorem ldaAbsY : Statement .ldaAbsY := ⟨rfl, rfl⟩
theorem ldaAbsX : Statement .ldaAbsX := ⟨rfl, rfl⟩
theorem ldxImm : Statement .ldxImm := ⟨rfl, rfl⟩
theorem ldxZp : Statement .ldxZp := ⟨rfl, rfl⟩
theorem ldxAbs : Statement .ldxAbs := ⟨rfl, rfl⟩
theorem ldxZpY : Statement .ldxZpY := ⟨rfl, rfl⟩
theorem ldxAbsY : Statement .ldxAbsY := ⟨rfl, rfl⟩
theorem ldyImm : Statement .ldyImm := ⟨rfl, rfl⟩
theorem ldyZp : Statement .ldyZp := ⟨rfl, rfl⟩
theorem ldyAbs : Statement .ldyAbs := ⟨rfl, rfl⟩
theorem ldyZpX : Statement .ldyZpX := ⟨rfl, rfl⟩
theorem ldyAbsX : Statement .ldyAbsX := ⟨rfl, rfl⟩
theorem staIndX : Statement .staIndX := ⟨rfl, rfl⟩
theorem staZp : Statement .staZp := ⟨rfl, rfl⟩
theorem staAbs : Statement .staAbs := ⟨rfl, rfl⟩
theorem staIndY : Statement .staIndY := ⟨rfl, rfl⟩
theorem staInd : Statement .staInd := ⟨rfl, rfl⟩
theorem staZpX : Statement .staZpX := ⟨rfl, rfl⟩
theorem staAbsY : Statement .staAbsY := ⟨rfl, rfl⟩
theorem staAbsX : Statement .staAbsX := ⟨rfl, rfl⟩
theorem stxZp : Statement .stxZp := ⟨rfl, rfl⟩
theorem stxAbs : Statement .stxAbs := ⟨rfl, rfl⟩
theorem stxZpY : Statement .stxZpY := ⟨rfl, rfl⟩
theorem styZp : Statement .styZp := ⟨rfl, rfl⟩
theorem styAbs : Statement .styAbs := ⟨rfl, rfl⟩
theorem styZpX : Statement .styZpX := ⟨rfl, rfl⟩
theorem stzZp : Statement .stzZp := ⟨rfl, rfl⟩
theorem stzZpX : Statement .stzZpX := ⟨rfl, rfl⟩
theorem stzAbs : Statement .stzAbs := ⟨rfl, rfl⟩
theorem stzAbsX : Statement .stzAbsX := ⟨rfl, rfl⟩
theorem tax : Statement .tax := ⟨rfl, rfl⟩
theorem tay : Statement .tay := ⟨rfl, rfl⟩
theorem txa : Statement .txa := ⟨rfl, rfl⟩
theorem tya : Statement .tya := ⟨rfl, rfl⟩
theorem txs : Statement .txs := ⟨rfl, rfl⟩
theorem tsx : Statement .tsx := ⟨rfl, rfl⟩
theorem oraIndX : Statement .oraIndX := ⟨rfl, rfl⟩
theorem oraZp : Statement .oraZp := ⟨rfl, rfl⟩
theorem oraImm : Statement .oraImm := ⟨rfl, rfl⟩
theorem oraAbs : Statement .oraAbs := ⟨rfl, rfl⟩
theorem oraIndY : Statement .oraIndY := ⟨rfl, rfl⟩
theorem oraInd : Statement .oraInd := ⟨rfl, rfl⟩
theorem oraZpX : Statement .oraZpX := ⟨rfl, rfl⟩
theorem oraAbsY : Statement .oraAbsY := ⟨rfl, rfl⟩
theorem oraAbsX : Statement .oraAbsX := ⟨rfl, rfl⟩
theorem andIndX : Statement .andIndX := ⟨rfl, rfl⟩
theorem andZp : Statement .andZp := ⟨rfl, rfl⟩
theorem andImm : Statement .andImm := ⟨rfl, rfl⟩
theorem andAbs : Statement .andAbs := ⟨rfl, rfl⟩
theorem andIndY : Statement .andIndY := ⟨rfl, rfl⟩
theorem andInd : Statement .andInd := ⟨rfl, rfl⟩
theorem andZpX : Statement .andZpX := ⟨rfl, rfl⟩
theorem andAbsY : Statement .andAbsY := ⟨rfl, rfl⟩
theorem andAbsX : Statement .andAbsX := ⟨rfl, rfl⟩
theorem eorIndX : Statement .eorIndX := ⟨rfl, rfl⟩
theorem eorZp : Statement .eorZp := ⟨rfl, rfl⟩
theorem eorImm : Statement .eorImm := ⟨rfl, rfl⟩
theorem eorAbs : Statement .eorAbs := ⟨rfl, rfl⟩
theorem eorIndY : Statement .eorIndY := ⟨rfl, rfl⟩
theorem eorInd : Statement .eorInd := ⟨rfl, rfl⟩
theorem eorZpX : Statement .eorZpX := ⟨rfl, rfl⟩
theorem eorAbsY : Statement .eorAbsY := ⟨rfl, rfl⟩
theorem eorAbsX : Statement .eorAbsX := ⟨rfl, rfl⟩
theorem adcIndX : Statement .adcIndX := ⟨rfl, rfl⟩
theorem adcZp : Statement .adcZp := ⟨rfl, rfl⟩
theorem adcImm : Statement .adcImm := ⟨rfl, rfl⟩
theorem adcAbs : Statement .adcAbs := ⟨rfl, rfl⟩
theorem adcIndY : Statement .adcIndY := ⟨rfl, rfl⟩
theorem adcInd : Statement .adcInd := ⟨rfl, rfl⟩
theorem adcZpX : Statement .adcZpX := ⟨rfl, rfl⟩
theorem adcAbsY : Statement .adcAbsY := ⟨rfl, rfl⟩
theorem adcAbsX : Statement .adcAbsX := ⟨rfl, rfl⟩
theorem sbcIndX : Statement .sbcIndX := ⟨rfl, rfl⟩
theorem sbcZp : Statement .sbcZp := ⟨rfl, rfl⟩
theorem sbcImm : Statement .sbcImm := ⟨rfl, rfl⟩
theorem sbcAbs : Statement .sbcAbs := ⟨rfl, rfl⟩
theorem sbcIndY : Statement .sbcIndY := ⟨rfl, rfl⟩
theorem sbcInd : Statement .sbcInd := ⟨rfl, rfl⟩
theorem sbcZpX : Statement .sbcZpX := ⟨rfl, rfl⟩
theorem sbcAbsY : Statement .sbcAbsY := ⟨rfl, rfl⟩
theorem sbcAbsX : Statement .sbcAbsX := ⟨rfl, rfl⟩
theorem cmpIndX : Statement .cmpIndX := ⟨rfl, rfl⟩
theorem cmpZp : Statement .cmpZp := ⟨rfl, rfl⟩
theorem cmpImm : Statement .cmpImm := ⟨rfl, rfl⟩
theorem cmpAbs : Statement .cmpAbs := ⟨rfl, rfl⟩
theorem cmpIndY : Statement .cmpIndY := ⟨rfl, rfl⟩
theorem cmpInd : Statement .cmpInd := ⟨rfl, rfl⟩
theorem cmpZpX : Statement .cmpZpX := ⟨rfl, rfl⟩
theorem cmpAbsY : Statement .cmpAbsY := ⟨rfl, rfl⟩
theorem cmpAbsX : Statement .cmpAbsX := ⟨rfl, rfl⟩
theorem cpxImm : Statement .cpxImm := ⟨rfl, rfl⟩
theorem cpxZp : Statement .cpxZp := ⟨rfl, rfl⟩
theorem cpxAbs : Statement .cpxAbs := ⟨rfl, rfl⟩
theorem cpyImm : Statement .cpyImm := ⟨rfl, rfl⟩
theorem cpyZp : Statement .cpyZp := ⟨rfl, rfl⟩
theorem cpyAbs : Statement .cpyAbs := ⟨rfl, rfl⟩
theorem bitZp : Statement .bitZp := ⟨rfl, rfl⟩
theorem bitAbs : Statement .bitAbs := ⟨rfl, rfl⟩
theorem bitZpX : Statement .bitZpX := ⟨rfl, rfl⟩
theorem bitAbsX : Statement .bitAbsX := ⟨rfl, rfl⟩
theorem bitImm : Statement .bitImm := ⟨rfl, rfl⟩
theorem aslZp : Statement .aslZp := ⟨rfl, rfl⟩
theorem aslA : Statement .aslA := ⟨rfl, rfl⟩
theorem aslAbs : Statement .aslAbs := ⟨rfl, rfl⟩
theorem aslZpX : Statement .aslZpX := ⟨rfl, rfl⟩
theorem aslAbsX : Statement .aslAbsX := ⟨rfl, rfl⟩
theorem lsrZp : Statement .lsrZp := ⟨rfl, rfl⟩
theorem lsrA : Statement .lsrA := ⟨rfl, rfl⟩
theorem lsrAbs : Statement .lsrAbs := ⟨rfl, rfl⟩
theorem lsrZpX : Statement .lsrZpX := ⟨rfl, rfl⟩
theorem lsrAbsX : Statement .lsrAbsX := ⟨rfl, rfl⟩
theorem rolZp : Statement .rolZp := ⟨rfl, rfl⟩
theorem rolA : Statement .rolA := ⟨rfl, rfl⟩
theorem rolAbs : Statement .rolAbs := ⟨rfl, rfl⟩
theorem rolZpX : Statement .rolZpX := ⟨rfl, rfl⟩
theorem rolAbsX : Statement .rolAbsX := ⟨rfl, rfl⟩
theorem rorZp : Statement .rorZp := ⟨rfl, rfl⟩
theorem rorA : Statement .rorA := ⟨rfl, rfl⟩
theorem rorAbs : Statement .rorAbs := ⟨rfl, rfl⟩
theorem rorZpX : Statement .rorZpX := ⟨rfl, rfl⟩
theorem rorAbsX : Statement .rorAbsX := ⟨rfl, rfl⟩
theorem incA : Statement .incA := ⟨rfl, rfl⟩
theorem incZp : Statement .incZp := ⟨rfl, rfl⟩
theorem incAbs : Statement .incAbs := ⟨rfl, rfl⟩
theorem incZpX : Statement .incZpX := ⟨rfl, rfl⟩
theorem incAbsX : Statement .incAbsX := ⟨rfl, rfl⟩
theorem decA : Statement .decA := ⟨rfl, rfl⟩
theorem decZp : Statement .decZp := ⟨rfl, rfl⟩
theorem decAbs : Statement .decAbs := ⟨rfl, rfl⟩
theorem decZpX : Statement .decZpX := ⟨rfl, rfl⟩
theorem decAbsX : Statement .decAbsX := ⟨rfl, rfl⟩
theorem inx : Statement .inx := ⟨rfl, rfl⟩
theorem iny : Statement .iny := ⟨rfl, rfl⟩
theorem dex : Statement .dex := ⟨rfl, rfl⟩
theorem dey : Statement .dey := ⟨rfl, rfl⟩
theorem tsbZp : Statement .tsbZp := ⟨rfl, rfl⟩
theorem tsbAbs : Statement .tsbAbs := ⟨rfl, rfl⟩
theorem trbZp : Statement .trbZp := ⟨rfl, rfl⟩
theorem trbAbs : Statement .trbAbs := ⟨rfl, rfl⟩
theorem rmb0 : Statement .rmb0 := ⟨rfl, rfl⟩
theorem rmb1 : Statement .rmb1 := ⟨rfl, rfl⟩
theorem rmb2 : Statement .rmb2 := ⟨rfl, rfl⟩
theorem rmb3 : Statement .rmb3 := ⟨rfl, rfl⟩
theorem rmb4 : Statement .rmb4 := ⟨rfl, rfl⟩
theorem rmb5 : Statement .rmb5 := ⟨rfl, rfl⟩
theorem rmb6 : Statement .rmb6 := ⟨rfl, rfl⟩
theorem rmb7 : Statement .rmb7 := ⟨rfl, rfl⟩
theorem smb0 : Statement .smb0 := ⟨rfl, rfl⟩
theorem smb1 : Statement .smb1 := ⟨rfl, rfl⟩
theorem smb2 : Statement .smb2 := ⟨rfl, rfl⟩
theorem smb3 : Statement .smb3 := ⟨rfl, rfl⟩
theorem smb4 : Statement .smb4 := ⟨rfl, rfl⟩
theorem smb5 : Statement .smb5 := ⟨rfl, rfl⟩
theorem smb6 : Statement .smb6 := ⟨rfl, rfl⟩
theorem smb7 : Statement .smb7 := ⟨rfl, rfl⟩
theorem bpl : Statement .bpl := ⟨rfl, rfl⟩
theorem bmi : Statement .bmi := ⟨rfl, rfl⟩
theorem bvc : Statement .bvc := ⟨rfl, rfl⟩
theorem bvs : Statement .bvs := ⟨rfl, rfl⟩
theorem bcc : Statement .bcc := ⟨rfl, rfl⟩
theorem bcs : Statement .bcs := ⟨rfl, rfl⟩
theorem bne : Statement .bne := ⟨rfl, rfl⟩
theorem beq : Statement .beq := ⟨rfl, rfl⟩
theorem bra : Statement .bra := ⟨rfl, rfl⟩
theorem bbr0 : Statement .bbr0 := ⟨rfl, rfl⟩
theorem bbr1 : Statement .bbr1 := ⟨rfl, rfl⟩
theorem bbr2 : Statement .bbr2 := ⟨rfl, rfl⟩
theorem bbr3 : Statement .bbr3 := ⟨rfl, rfl⟩
theorem bbr4 : Statement .bbr4 := ⟨rfl, rfl⟩
theorem bbr5 : Statement .bbr5 := ⟨rfl, rfl⟩
theorem bbr6 : Statement .bbr6 := ⟨rfl, rfl⟩
theorem bbr7 : Statement .bbr7 := ⟨rfl, rfl⟩
theorem bbs0 : Statement .bbs0 := ⟨rfl, rfl⟩
theorem bbs1 : Statement .bbs1 := ⟨rfl, rfl⟩
theorem bbs2 : Statement .bbs2 := ⟨rfl, rfl⟩
theorem bbs3 : Statement .bbs3 := ⟨rfl, rfl⟩
theorem bbs4 : Statement .bbs4 := ⟨rfl, rfl⟩
theorem bbs5 : Statement .bbs5 := ⟨rfl, rfl⟩
theorem bbs6 : Statement .bbs6 := ⟨rfl, rfl⟩
theorem bbs7 : Statement .bbs7 := ⟨rfl, rfl⟩
theorem jmpAbs : Statement .jmpAbs := ⟨rfl, rfl⟩
theorem jmpInd : Statement .jmpInd := ⟨rfl, rfl⟩
theorem jmpIndX : Statement .jmpIndX := ⟨rfl, rfl⟩
theorem jsr : Statement .jsr := ⟨rfl, rfl⟩
theorem rts : Statement .rts := ⟨rfl, rfl⟩
theorem rti : Statement .rti := ⟨rfl, rfl⟩
theorem brk : Statement .brk := ⟨rfl, rfl⟩
theorem pha : Statement .pha := ⟨rfl, rfl⟩
theorem phx : Statement .phx := ⟨rfl, rfl⟩
theorem phy : Statement .phy := ⟨rfl, rfl⟩
theorem php : Statement .php := ⟨rfl, rfl⟩
theorem pla : Statement .pla := ⟨rfl, rfl⟩
theorem plx : Statement .plx := ⟨rfl, rfl⟩
theorem ply : Statement .ply := ⟨rfl, rfl⟩
theorem plp : Statement .plp := ⟨rfl, rfl⟩
theorem clc : Statement .clc := ⟨rfl, rfl⟩
theorem sec : Statement .sec := ⟨rfl, rfl⟩
theorem cli : Statement .cli := ⟨rfl, rfl⟩
theorem sei : Statement .sei := ⟨rfl, rfl⟩
theorem cld : Statement .cld := ⟨rfl, rfl⟩
theorem sed : Statement .sed := ⟨rfl, rfl⟩
theorem clv : Statement .clv := ⟨rfl, rfl⟩
theorem nop : Statement .nop := ⟨rfl, rfl⟩
theorem und02 : Statement .und02 := ⟨rfl, rfl⟩
theorem und03 : Statement .und03 := ⟨rfl, rfl⟩
theorem und0B : Statement .und0B := ⟨rfl, rfl⟩
theorem und13 : Statement .und13 := ⟨rfl, rfl⟩
theorem und1B : Statement .und1B := ⟨rfl, rfl⟩
theorem und22 : Statement .und22 := ⟨rfl, rfl⟩
theorem und23 : Statement .und23 := ⟨rfl, rfl⟩
theorem und2B : Statement .und2B := ⟨rfl, rfl⟩
theorem und33 : Statement .und33 := ⟨rfl, rfl⟩
theorem und3B : Statement .und3B := ⟨rfl, rfl⟩
theorem und42 : Statement .und42 := ⟨rfl, rfl⟩
theorem und43 : Statement .und43 := ⟨rfl, rfl⟩
theorem und44 : Statement .und44 := ⟨rfl, rfl⟩
theorem und4B : Statement .und4B := ⟨rfl, rfl⟩
theorem und53 : Statement .und53 := ⟨rfl, rfl⟩
theorem und54 : Statement .und54 := ⟨rfl, rfl⟩
theorem und5B : Statement .und5B := ⟨rfl, rfl⟩
theorem und5C : Statement .und5C := ⟨rfl, rfl⟩
theorem und62 : Statement .und62 := ⟨rfl, rfl⟩
theorem und63 : Statement .und63 := ⟨rfl, rfl⟩
theorem und6B : Statement .und6B := ⟨rfl, rfl⟩
theorem und73 : Statement .und73 := ⟨rfl, rfl⟩
theorem und7B : Statement .und7B := ⟨rfl, rfl⟩
theorem und82 : Statement .und82 := ⟨rfl, rfl⟩
theorem und83 : Statement .und83 := ⟨rfl, rfl⟩
theorem und8B : Statement .und8B := ⟨rfl, rfl⟩
theorem und93 : Statement .und93 := ⟨rfl, rfl⟩
theorem und9B : Statement .und9B := ⟨rfl, rfl⟩
theorem undA3 : Statement .undA3 := ⟨rfl, rfl⟩
theorem undAB : Statement .undAB := ⟨rfl, rfl⟩
theorem undB3 : Statement .undB3 := ⟨rfl, rfl⟩
theorem undBB : Statement .undBB := ⟨rfl, rfl⟩
theorem undC2 : Statement .undC2 := ⟨rfl, rfl⟩
theorem undC3 : Statement .undC3 := ⟨rfl, rfl⟩
theorem undD3 : Statement .undD3 := ⟨rfl, rfl⟩
theorem undD4 : Statement .undD4 := ⟨rfl, rfl⟩
theorem undDC : Statement .undDC := ⟨rfl, rfl⟩
theorem undE2 : Statement .undE2 := ⟨rfl, rfl⟩
theorem undE3 : Statement .undE3 := ⟨rfl, rfl⟩
theorem undEB : Statement .undEB := ⟨rfl, rfl⟩
theorem undF3 : Statement .undF3 := ⟨rfl, rfl⟩
theorem undF4 : Statement .undF4 := ⟨rfl, rfl⟩
theorem undFB : Statement .undFB := ⟨rfl, rfl⟩
theorem undFC : Statement .undFC := ⟨rfl, rfl⟩
theorem wai : Statement .wai := ⟨rfl, rfl⟩
theorem stp : Statement .stp := ⟨rfl, rfl⟩

end Sys2Proof.Laws.RoundTrip
end

