-- ==== Sys2Proof/Tests/Slice0.lean ====
section
/-!
SUPPORT. The model's own tests: ill-formed terms that the checks refuse, words from the spec's encodings, single steps with results from the
spec's vectors, and for every statement with hypotheses a state and operands that meet them.
-/

set_option Elab.async false

namespace Sys2Proof.Tests

open Sys2Proof Sys2Proof.Machine

/-! ### Ill-formed terms are refused (spec R100, R140) -/

/-- LDA # with no operand byte. -/
theorem test_no_operand_refused : Insn.wellFormed ⟨.ldaImm, []⟩ = false := by decide

/-- LDA # with two operand bytes. -/
theorem test_second_operand_refused : Insn.wellFormed ⟨.ldaImm, [0x23#8, 0x00#8]⟩ = false := by decide

/-- TAX with an operand byte. -/
theorem test_operand_of_implied_refused : Insn.wellFormed ⟨.tax, [0x00#8]⟩ = false := by decide

/-- JMP with half an address. -/
theorem test_half_address_refused : Insn.wellFormed ⟨.jmpAbs, [0x00#8]⟩ = false := by decide

/-- A target 128 bytes ahead is out of reach. -/
theorem test_target_out_of_reach_refused : branchReaches 0x0202#16 0x0282#16 = false := by decide

/-- A target 128 bytes back is in reach. -/
theorem test_target_in_reach : branchOffset 0x0202#16 0x0182#16 = some 0x80#8 := by decide

/-- Bytes that end before the operand are refused by name. -/
theorem test_truncated_refused : decodeInsn [0x20#8, 0x00#8] = .error (.truncated .jsr) := by decide

/-- No byte is refused by name. -/
theorem test_empty_refused : decodeInsn [] = .error .noOpcode := by decide

/-! ### Words from the spec's encodings (spec R132, R135, R140) -/

/-- The matrix is what the systematic rule and the override list build (spec R132 to R134). -/
theorem test_matrix_is_constructed :
    ∀ n : Fin 256, constructed (BitVec.ofFin n) =
      some ((decodeOpcode (BitVec.ofFin n)).mnemonic, (decodeOpcode (BitVec.ofFin n)).list) := by decide +kernel

/-- `A9 23`, LDA #$23: 101 010 01 and the byte (spec R132, R200). -/
theorem test_decode_lda : decodeTableWord 16 0b00100011_10101001 = some .ldaImm := by decide

/-- `71 20`, ADC ($20),Y: 011 100 01 (spec R132, R234). -/
theorem test_decode_adc : decodeTableWord 16 0b00100000_01110001 = some .adcIndY := by decide

/-- `1E F0 30`, ASL $30F0,X: 000 111 10 (spec R132, R261). -/
theorem test_decode_asl : decodeTableWord 24 0b00110000_11110000_00011110 = some .aslAbsX := by decide

/-- `57 20`, RMB5 $20: bit index 101 in bits 6 to 4 of $x7 (spec R102, R273). -/
theorem test_decode_rmb5 : decodeTableWord 16 0b00100000_01010111 = some .rmb5 := by decide

/-- `FF 10 FB`, BBS7: bit index 111 in bits 6 to 4 of $xF (spec R102, R301). -/
theorem test_decode_bbs7 : decodeTableWord 24 0b11111011_00010000_11111111 = some .bbs7 := by decide

/-- `D0 FD`, BNE: 11 0 10000 (spec R290). -/
theorem test_decode_bne : decodeTableWord 16 0b11111101_11010000 = some .bne := by decide

/-- `7C 00 03`, JMP ($0300,X), an override (spec R133, R304). -/
theorem test_decode_jmp : decodeTableWord 24 0b00000011_00000000_01111100 = some .jmpIndX := by decide

/-- `DA`, PHX, an override (spec R133, R331). -/
theorem test_decode_phx : decodeTableWord 8 0b11011010 = some .phx := by decide

/-- `5C 34 12`, the three-byte undefined no-op (spec R131). -/
theorem test_decode_und5C : decodeTableWord 24 0b00010010_00110100_01011100 = some .und5C := by decide

/-- `DB`, STP (spec R134, R348). -/
theorem test_decode_stp : decodeTableWord 8 0b11011011 = some .stp := by decide

/-! ### Single steps

`place` puts an instruction where the next step runs it; every register stands as given, PC at the first operand byte. -/

/-- A state in which the opcode of a table word has been fetched, on RAM that holds `cells`. -/
def place (r : Regs) (cells : Memory) (nbits w : Nat) : State :=
  State.withFetchWord { State.reset with regs := r, devices := [Device.fullRam cells] } nbits w

/-- One step leaves these registers (PC one past the next opcode), in so many cycles, and these bytes. -/
def gives (start : Regs) (cells : Memory) (nbits w : Nat) (after : Regs) (n : Nat) (bytes : List (Word × Byte)) : Bool :=
  match step (place start cells nbits w) with
  | .next t => decide (t.regs = after) && t.eng.cycles == 7 + n && bytes.all fun b => t.peek b.1 == b.2
  | .fault _ | .refused _ => false


/-- `B6 F0`: spec 95_test_vectors.md LS3. -/
theorem test_ldx_zpY_wraps :
    gives ⟨0x0201#16, 0x00#8, 0x00#8, 0x20#8, 0xFF#8, 0x00#8⟩ [(0x0010, 0x7E#8)] 16 0xF0B6
      ⟨0x0203#16, 0x00#8, 0x7E#8, 0x20#8, 0xFF#8, 0x00#8⟩ 4 [] = true := by decide +kernel

/-- `BD F8 30`: spec 95_test_vectors.md LS5. -/
theorem test_lda_absX_crosses :
    gives ⟨0x0201#16, 0x00#8, 0x10#8, 0x00#8, 0xFF#8, 0x00#8⟩ [(0x3108, 0x5A#8)] 24 0x30F8BD
      ⟨0x0204#16, 0x5A#8, 0x10#8, 0x00#8, 0xFF#8, 0x00#8⟩ 5 [] = true := by decide +kernel

/-- `BC FF 20`: spec 95_test_vectors.md LS6. -/
theorem test_ldy_absX_negative :
    gives ⟨0x0201#16, 0x00#8, 0x01#8, 0x00#8, 0xFF#8, 0x00#8⟩ [(0x2100, 0x80#8)] 24 0x20FFBC
      ⟨0x0204#16, 0x00#8, 0x01#8, 0x80#8, 0xFF#8, 0x80#8⟩ 5 [] = true := by decide +kernel

/-- `A1 FE`: spec 95_test_vectors.md LS7. -/
theorem test_lda_indX_wraps :
    gives ⟨0x0201#16, 0x00#8, 0x05#8, 0x00#8, 0xFF#8, 0x00#8⟩ [(0x0003, 0x34#8), (0x0004, 0x12#8), (0x1234, 0xC3#8)] 16 0xFEA1
      ⟨0x0203#16, 0xC3#8, 0x05#8, 0x00#8, 0xFF#8, 0x80#8⟩ 6 [] = true := by decide +kernel

/-- `B1 FF`: spec 95_test_vectors.md V7. -/
theorem test_lda_indY_pointer_wraps :
    gives ⟨0x0201#16, 0x00#8, 0x00#8, 0x20#8, 0xFF#8, 0x00#8⟩ [(0x0000, 0x12#8), (0x00FF, 0xF0#8), (0x0100, 0x13#8), (0x1310, 0x77#8)] 16 0xFFB1
      ⟨0x0203#16, 0x77#8, 0x00#8, 0x20#8, 0xFF#8, 0x00#8⟩ 6 [] = true := by decide +kernel

/-- `91 FF`: spec 95_test_vectors.md V7. -/
theorem test_sta_indY_no_penalty :
    gives ⟨0x0201#16, 0x66#8, 0x00#8, 0x20#8, 0xFF#8, 0x00#8⟩ [(0x0000, 0x12#8), (0x00FF, 0xF0#8), (0x0100, 0x13#8)] 16 0xFF91
      ⟨0x0203#16, 0x66#8, 0x00#8, 0x20#8, 0xFF#8, 0x00#8⟩ 6 [(0x1310#16, 0x66#8)] = true := by decide +kernel

/-- `9D F8 30`: spec 95_test_vectors.md LS9. -/
theorem test_sta_absX :
    gives ⟨0x0201#16, 0xAB#8, 0x10#8, 0x00#8, 0xFF#8, 0x00#8⟩ [] 24 0x30F89D
      ⟨0x0204#16, 0xAB#8, 0x10#8, 0x00#8, 0xFF#8, 0x00#8⟩ 5 [(0x3108#16, 0xAB#8), (0x3008#16, 0x00#8)] = true := by decide +kernel

/-- `96 F0`: spec 95_test_vectors.md LS10. -/
theorem test_stx_zpY_wraps :
    gives ⟨0x0201#16, 0x00#8, 0x99#8, 0x20#8, 0xFF#8, 0x00#8⟩ [] 16 0xF096
      ⟨0x0203#16, 0x00#8, 0x99#8, 0x20#8, 0xFF#8, 0x00#8⟩ 4 [(0x0010#16, 0x99#8), (0x0110#16, 0x00#8)] = true := by decide +kernel

/-- `8C 00 30`: spec 95_test_vectors.md LS11. -/
theorem test_sty_abs :
    gives ⟨0x0201#16, 0x00#8, 0x00#8, 0x42#8, 0xFF#8, 0x00#8⟩ [] 24 0x30008C
      ⟨0x0204#16, 0x00#8, 0x00#8, 0x42#8, 0xFF#8, 0x00#8⟩ 4 [(0x3000#16, 0x42#8)] = true := by decide +kernel

/-- `64 20`: spec 95_test_vectors.md LS12. -/
theorem test_stz_zp :
    gives ⟨0x0201#16, 0x00#8, 0x00#8, 0x00#8, 0xFF#8, 0xC3#8⟩ [(0x0020, 0xFF#8)] 16 0x2064
      ⟨0x0203#16, 0x00#8, 0x00#8, 0x00#8, 0xFF#8, 0xC3#8⟩ 3 [(0x0020#16, 0x00#8)] = true := by decide +kernel

/-- `AA`: spec 95_test_vectors.md LS13. -/
theorem test_tax_zero :
    gives ⟨0x0201#16, 0x00#8, 0x55#8, 0x00#8, 0xFF#8, 0x00#8⟩ [] 8 0xAA
      ⟨0x0202#16, 0x00#8, 0x00#8, 0x00#8, 0xFF#8, 0x02#8⟩ 2 [] = true := by decide +kernel

/-- `A8`: spec 95_test_vectors.md LS14. -/
theorem test_tay_negative :
    gives ⟨0x0201#16, 0x90#8, 0x00#8, 0x00#8, 0xFF#8, 0x00#8⟩ [] 8 0xA8
      ⟨0x0202#16, 0x90#8, 0x00#8, 0x90#8, 0xFF#8, 0x80#8⟩ 2 [] = true := by decide +kernel

/-- `8A`: spec 95_test_vectors.md LS15. -/
theorem test_txa :
    gives ⟨0x0201#16, 0x11#8, 0x00#8, 0x00#8, 0xFF#8, 0x00#8⟩ [] 8 0x8A
      ⟨0x0202#16, 0x00#8, 0x00#8, 0x00#8, 0xFF#8, 0x02#8⟩ 2 [] = true := by decide +kernel

/-- `98`: spec 95_test_vectors.md LS16. -/
theorem test_tya :
    gives ⟨0x0201#16, 0x00#8, 0x00#8, 0x7F#8, 0xFF#8, 0x82#8⟩ [] 8 0x98
      ⟨0x0202#16, 0x7F#8, 0x00#8, 0x7F#8, 0xFF#8, 0x00#8⟩ 2 [] = true := by decide +kernel

/-- `9A`: spec 95_test_vectors.md LS17. -/
theorem test_txs_no_flags :
    gives ⟨0x0201#16, 0x00#8, 0x00#8, 0x00#8, 0xFF#8, 0x82#8⟩ [] 8 0x9A
      ⟨0x0202#16, 0x00#8, 0x00#8, 0x00#8, 0x00#8, 0x82#8⟩ 2 [] = true := by decide +kernel

/-- `BA`: spec 95_test_vectors.md LS18. -/
theorem test_tsx :
    gives ⟨0x0201#16, 0x00#8, 0x00#8, 0x00#8, 0x80#8, 0x00#8⟩ [] 8 0xBA
      ⟨0x0202#16, 0x00#8, 0x80#8, 0x00#8, 0x80#8, 0x80#8⟩ 2 [] = true := by decide +kernel

/-- `69 50`: spec 95_test_vectors.md V4. -/
theorem test_adc_overflows :
    gives ⟨0x0201#16, 0x50#8, 0x00#8, 0x00#8, 0xFF#8, 0x00#8⟩ [] 16 0x5069
      ⟨0x0203#16, 0xA0#8, 0x00#8, 0x00#8, 0xFF#8, 0xC0#8⟩ 2 [] = true := by decide +kernel

/-- `69 90`: spec 95_test_vectors.md V4. -/
theorem test_adc_carry_out :
    gives ⟨0x0201#16, 0xD0#8, 0x00#8, 0x00#8, 0xFF#8, 0x00#8⟩ [] 16 0x9069
      ⟨0x0203#16, 0x60#8, 0x00#8, 0x00#8, 0xFF#8, 0x41#8⟩ 2 [] = true := by decide +kernel

/-- `E9 01`: spec 95_test_vectors.md 2.2. -/
theorem test_sbc_overflows :
    gives ⟨0x0201#16, 0x80#8, 0x00#8, 0x00#8, 0xFF#8, 0x01#8⟩ [] 16 0x01E9
      ⟨0x0203#16, 0x7F#8, 0x00#8, 0x00#8, 0xFF#8, 0x41#8⟩ 2 [] = true := by decide +kernel

/-- `E9 05`: spec 95_test_vectors.md 2.2. -/
theorem test_sbc_borrows :
    gives ⟨0x0201#16, 0x05#8, 0x00#8, 0x00#8, 0xFF#8, 0x00#8⟩ [] 16 0x05E9
      ⟨0x0203#16, 0xFF#8, 0x00#8, 0x00#8, 0xFF#8, 0x80#8⟩ 2 [] = true := by decide +kernel

/-- `09 80`: spec 95_test_vectors.md 2.2. -/
theorem test_ora :
    gives ⟨0x0201#16, 0x81#8, 0x00#8, 0x00#8, 0xFF#8, 0x00#8⟩ [] 16 0x8009
      ⟨0x0203#16, 0x81#8, 0x00#8, 0x00#8, 0xFF#8, 0x80#8⟩ 2 [] = true := by decide +kernel

/-- `29 0F`: spec 95_test_vectors.md 2.2. -/
theorem test_and_zero :
    gives ⟨0x0201#16, 0xF0#8, 0x00#8, 0x00#8, 0xFF#8, 0x00#8⟩ [] 16 0x0F29
      ⟨0x0203#16, 0x00#8, 0x00#8, 0x00#8, 0xFF#8, 0x02#8⟩ 2 [] = true := by decide +kernel

/-- `49 80`: spec 95_test_vectors.md 2.2. -/
theorem test_eor :
    gives ⟨0x0201#16, 0x81#8, 0x00#8, 0x00#8, 0xFF#8, 0x80#8⟩ [] 16 0x8049
      ⟨0x0203#16, 0x01#8, 0x00#8, 0x00#8, 0xFF#8, 0x00#8⟩ 2 [] = true := by decide +kernel

/-- `C9 41`: spec 95_test_vectors.md 2.2. -/
theorem test_cmp_less :
    gives ⟨0x0201#16, 0x40#8, 0x00#8, 0x00#8, 0xFF#8, 0x41#8⟩ [] 16 0x41C9
      ⟨0x0203#16, 0x40#8, 0x00#8, 0x00#8, 0xFF#8, 0xC0#8⟩ 2 [] = true := by decide +kernel

/-- `E0 00`: spec 95_test_vectors.md 2.2. -/
theorem test_cpx_greater :
    gives ⟨0x0201#16, 0x00#8, 0xFF#8, 0x00#8, 0xFF#8, 0x00#8⟩ [] 16 0x00E0
      ⟨0x0203#16, 0x00#8, 0xFF#8, 0x00#8, 0xFF#8, 0x81#8⟩ 2 [] = true := by decide +kernel

/-- `C0 40`: spec 95_test_vectors.md 2.2. -/
theorem test_cpy_equal :
    gives ⟨0x0201#16, 0x00#8, 0x00#8, 0x40#8, 0xFF#8, 0x00#8⟩ [] 16 0x40C0
      ⟨0x0203#16, 0x00#8, 0x00#8, 0x40#8, 0xFF#8, 0x03#8⟩ 2 [] = true := by decide +kernel

/-- `89 C0`: spec 95_test_vectors.md V5. -/
theorem test_bit_imm_keeps_nv :
    gives ⟨0x0201#16, 0x01#8, 0x00#8, 0x00#8, 0xFF#8, 0x00#8⟩ [] 16 0xC089
      ⟨0x0203#16, 0x01#8, 0x00#8, 0x00#8, 0xFF#8, 0x02#8⟩ 2 [] = true := by decide +kernel

/-- `24 10`: spec 95_test_vectors.md V5. -/
theorem test_bit_zp_sets_nv :
    gives ⟨0x0201#16, 0x01#8, 0x00#8, 0x00#8, 0xFF#8, 0x00#8⟩ [(0x0010, 0xC0#8)] 16 0x1024
      ⟨0x0203#16, 0x01#8, 0x00#8, 0x00#8, 0xFF#8, 0xC2#8⟩ 3 [] = true := by decide +kernel

/-- `0A`: spec 95_test_vectors.md 2.3. -/
theorem test_asl_a :
    gives ⟨0x0201#16, 0x80#8, 0x00#8, 0x00#8, 0xFF#8, 0x00#8⟩ [] 8 0x0A
      ⟨0x0202#16, 0x00#8, 0x00#8, 0x00#8, 0xFF#8, 0x03#8⟩ 2 [] = true := by decide +kernel

/-- `4A`: spec 95_test_vectors.md 2.3. -/
theorem test_lsr_a :
    gives ⟨0x0201#16, 0xFF#8, 0x00#8, 0x00#8, 0xFF#8, 0x80#8⟩ [] 8 0x4A
      ⟨0x0202#16, 0x7F#8, 0x00#8, 0x00#8, 0xFF#8, 0x01#8⟩ 2 [] = true := by decide +kernel

/-- `2A`: spec 95_test_vectors.md V3. -/
theorem test_rol_a_carry_in :
    gives ⟨0x0201#16, 0xAA#8, 0x00#8, 0x00#8, 0xFF#8, 0x01#8⟩ [] 8 0x2A
      ⟨0x0202#16, 0x55#8, 0x00#8, 0x00#8, 0xFF#8, 0x01#8⟩ 2 [] = true := by decide +kernel

/-- `6A`: spec 95_test_vectors.md 2.3. -/
theorem test_ror_a_carry_in :
    gives ⟨0x0201#16, 0xAA#8, 0x00#8, 0x00#8, 0xFF#8, 0x01#8⟩ [] 8 0x6A
      ⟨0x0202#16, 0xD5#8, 0x00#8, 0x00#8, 0xFF#8, 0x80#8⟩ 2 [] = true := by decide +kernel

/-- `1A`: spec 95_test_vectors.md 2.3. -/
theorem test_inc_a_wraps :
    gives ⟨0x0201#16, 0xFF#8, 0x00#8, 0x00#8, 0xFF#8, 0x01#8⟩ [] 8 0x1A
      ⟨0x0202#16, 0x00#8, 0x00#8, 0x00#8, 0xFF#8, 0x03#8⟩ 2 [] = true := by decide +kernel

/-- `3A`: spec 95_test_vectors.md 2.3. -/
theorem test_dec_a_wraps :
    gives ⟨0x0201#16, 0x00#8, 0x00#8, 0x00#8, 0xFF#8, 0x00#8⟩ [] 8 0x3A
      ⟨0x0202#16, 0xFF#8, 0x00#8, 0x00#8, 0xFF#8, 0x80#8⟩ 2 [] = true := by decide +kernel

/-- `E8`: spec 95_test_vectors.md 2.3. -/
theorem test_inx :
    gives ⟨0x0201#16, 0x00#8, 0x7F#8, 0x00#8, 0xFF#8, 0x00#8⟩ [] 8 0xE8
      ⟨0x0202#16, 0x00#8, 0x80#8, 0x00#8, 0xFF#8, 0x80#8⟩ 2 [] = true := by decide +kernel

/-- `C8`: spec 95_test_vectors.md 2.3. -/
theorem test_iny_wraps :
    gives ⟨0x0201#16, 0x00#8, 0x00#8, 0xFF#8, 0xFF#8, 0x00#8⟩ [] 8 0xC8
      ⟨0x0202#16, 0x00#8, 0x00#8, 0x00#8, 0xFF#8, 0x02#8⟩ 2 [] = true := by decide +kernel

/-- `CA`: spec 95_test_vectors.md 2.3. -/
theorem test_dex_wraps :
    gives ⟨0x0201#16, 0x00#8, 0x00#8, 0x00#8, 0xFF#8, 0x00#8⟩ [] 8 0xCA
      ⟨0x0202#16, 0x00#8, 0xFF#8, 0x00#8, 0xFF#8, 0x80#8⟩ 2 [] = true := by decide +kernel

/-- `88`: spec 95_test_vectors.md 2.3. -/
theorem test_dey :
    gives ⟨0x0201#16, 0x00#8, 0x00#8, 0xFF#8, 0xFF#8, 0x00#8⟩ [] 8 0x88
      ⟨0x0202#16, 0x00#8, 0x00#8, 0xFE#8, 0xFF#8, 0x80#8⟩ 2 [] = true := by decide +kernel

/-- `E6 10`: spec 95_test_vectors.md M1. -/
theorem test_inc_zp_wraps :
    gives ⟨0x0201#16, 0x00#8, 0x00#8, 0x00#8, 0xFF#8, 0x00#8⟩ [(0x0010, 0xFF#8)] 16 0x10E6
      ⟨0x0203#16, 0x00#8, 0x00#8, 0x00#8, 0xFF#8, 0x02#8⟩ 5 [(0x0010#16, 0x00#8)] = true := by decide +kernel

/-- `CE 00 30`: spec 95_test_vectors.md M2. -/
theorem test_dec_abs_wraps :
    gives ⟨0x0201#16, 0x00#8, 0x00#8, 0x00#8, 0xFF#8, 0x00#8⟩ [] 24 0x3000CE
      ⟨0x0204#16, 0x00#8, 0x00#8, 0x00#8, 0xFF#8, 0x80#8⟩ 6 [(0x3000#16, 0xFF#8)] = true := by decide +kernel

/-- `1E F0 30`: spec 95_test_vectors.md M3. -/
theorem test_asl_absX_crosses :
    gives ⟨0x0201#16, 0x00#8, 0x10#8, 0x00#8, 0xFF#8, 0x00#8⟩ [(0x3100, 0x81#8)] 24 0x30F01E
      ⟨0x0204#16, 0x00#8, 0x10#8, 0x00#8, 0xFF#8, 0x01#8⟩ 7 [(0x3100#16, 0x02#8)] = true := by decide +kernel

/-- `76 F8`: spec 95_test_vectors.md M5. -/
theorem test_ror_zpX_wraps :
    gives ⟨0x0201#16, 0x00#8, 0x10#8, 0x00#8, 0xFF#8, 0x01#8⟩ [(0x0008, 0x01#8)] 16 0xF876
      ⟨0x0203#16, 0x00#8, 0x10#8, 0x00#8, 0xFF#8, 0x81#8⟩ 6 [(0x0008#16, 0x80#8)] = true := by decide +kernel

/-- `04 20`: spec 95_test_vectors.md M6. -/
theorem test_tsb_z_of_old_byte :
    gives ⟨0x0201#16, 0xF0#8, 0x00#8, 0x00#8, 0xFF#8, 0x00#8⟩ [(0x0020, 0x0F#8)] 16 0x2004
      ⟨0x0203#16, 0xF0#8, 0x00#8, 0x00#8, 0xFF#8, 0x02#8⟩ 5 [(0x0020#16, 0xFF#8)] = true := by decide +kernel

/-- `1C 00 30`: spec 95_test_vectors.md M8. -/
theorem test_trb_keeps_n :
    gives ⟨0x0201#16, 0x0F#8, 0x00#8, 0x00#8, 0xFF#8, 0x80#8⟩ [(0x3000, 0xFF#8)] 24 0x30001C
      ⟨0x0204#16, 0x0F#8, 0x00#8, 0x00#8, 0xFF#8, 0x80#8⟩ 6 [(0x3000#16, 0xF0#8)] = true := by decide +kernel

/-- `37 20`: spec 95_test_vectors.md M10. -/
theorem test_rmb3 :
    gives ⟨0x0201#16, 0x00#8, 0x00#8, 0x00#8, 0xFF#8, 0x00#8⟩ [(0x0020, 0xFF#8)] 16 0x2037
      ⟨0x0203#16, 0x00#8, 0x00#8, 0x00#8, 0xFF#8, 0x00#8⟩ 5 [(0x0020#16, 0xF7#8)] = true := by decide +kernel

/-- `F7 20`: spec 95_test_vectors.md M12. -/
theorem test_smb7 :
    gives ⟨0x0201#16, 0x00#8, 0x00#8, 0x00#8, 0xFF#8, 0x00#8⟩ [] 16 0x20F7
      ⟨0x0203#16, 0x00#8, 0x00#8, 0x00#8, 0xFF#8, 0x00#8⟩ 5 [(0x0020#16, 0x80#8)] = true := by decide +kernel

/-- `10 01`: spec 95_test_vectors.md 2.4. -/
theorem test_bpl_not_taken :
    gives ⟨0x0201#16, 0x00#8, 0x00#8, 0x00#8, 0xFF#8, 0x80#8⟩ [] 16 0x0110
      ⟨0x0203#16, 0x00#8, 0x00#8, 0x00#8, 0xFF#8, 0x80#8⟩ 2 [] = true := by decide +kernel

/-- `30 01`: spec 95_test_vectors.md 2.4. -/
theorem test_bmi_taken :
    gives ⟨0x0201#16, 0x00#8, 0x00#8, 0x00#8, 0xFF#8, 0x80#8⟩ [] 16 0x0130
      ⟨0x0204#16, 0x00#8, 0x00#8, 0x00#8, 0xFF#8, 0x80#8⟩ 3 [] = true := by decide +kernel

/-- `50 01`: spec 95_test_vectors.md 2.4. -/
theorem test_bvc_not_taken :
    gives ⟨0x0201#16, 0x00#8, 0x00#8, 0x00#8, 0xFF#8, 0x40#8⟩ [] 16 0x0150
      ⟨0x0203#16, 0x00#8, 0x00#8, 0x00#8, 0xFF#8, 0x40#8⟩ 2 [] = true := by decide +kernel

/-- `70 01`: spec 95_test_vectors.md 2.4. -/
theorem test_bvs_taken :
    gives ⟨0x0201#16, 0x00#8, 0x00#8, 0x00#8, 0xFF#8, 0x40#8⟩ [] 16 0x0170
      ⟨0x0204#16, 0x00#8, 0x00#8, 0x00#8, 0xFF#8, 0x40#8⟩ 3 [] = true := by decide +kernel

/-- `90 01`: spec 95_test_vectors.md 2.4. -/
theorem test_bcc_not_taken :
    gives ⟨0x0201#16, 0x00#8, 0x00#8, 0x00#8, 0xFF#8, 0x01#8⟩ [] 16 0x0190
      ⟨0x0203#16, 0x00#8, 0x00#8, 0x00#8, 0xFF#8, 0x01#8⟩ 2 [] = true := by decide +kernel

/-- `B0 01`: spec 95_test_vectors.md 2.4. -/
theorem test_bcs_taken :
    gives ⟨0x0201#16, 0x00#8, 0x00#8, 0x00#8, 0xFF#8, 0x01#8⟩ [] 16 0x01B0
      ⟨0x0204#16, 0x00#8, 0x00#8, 0x00#8, 0xFF#8, 0x01#8⟩ 3 [] = true := by decide +kernel

/-- `D0 02`: spec 95_test_vectors.md 2.4. -/
theorem test_bne_taken :
    gives ⟨0x0201#16, 0x00#8, 0x00#8, 0x00#8, 0xFF#8, 0x00#8⟩ [] 16 0x02D0
      ⟨0x0205#16, 0x00#8, 0x00#8, 0x00#8, 0xFF#8, 0x00#8⟩ 3 [] = true := by decide +kernel

/-- `F0 10`: spec 95_test_vectors.md V6. -/
theorem test_beq_crosses :
    gives ⟨0x02FE#16, 0x00#8, 0x00#8, 0x00#8, 0xFF#8, 0x02#8⟩ [] 16 0x10F0
      ⟨0x0310#16, 0x00#8, 0x00#8, 0x00#8, 0xFF#8, 0x02#8⟩ 4 [] = true := by decide +kernel

/-- `80 80`: spec 95_test_vectors.md 2.4. -/
theorem test_bra_backward_crosses :
    gives ⟨0x0201#16, 0x00#8, 0x00#8, 0x00#8, 0xFF#8, 0x00#8⟩ [] 16 0x8080
      ⟨0x0183#16, 0x00#8, 0x00#8, 0x00#8, 0xFF#8, 0x00#8⟩ 4 [] = true := by decide +kernel

/-- `0F 20 01`: spec 95_test_vectors.md 2.4. -/
theorem test_bbr0_taken :
    gives ⟨0x0201#16, 0x00#8, 0x00#8, 0x00#8, 0xFF#8, 0x00#8⟩ [(0x0020, 0xFE#8)] 24 0x01200F
      ⟨0x0205#16, 0x00#8, 0x00#8, 0x00#8, 0xFF#8, 0x00#8⟩ 6 [] = true := by decide +kernel

/-- `FF 20 01`: spec 95_test_vectors.md 2.4. -/
theorem test_bbs7_not_taken :
    gives ⟨0x0201#16, 0x00#8, 0x00#8, 0x00#8, 0xFF#8, 0x00#8⟩ [(0x0020, 0x7F#8)] 24 0x0120FF
      ⟨0x0204#16, 0x00#8, 0x00#8, 0x00#8, 0xFF#8, 0x00#8⟩ 5 [] = true := by decide +kernel

/-- `4C 00 30`: spec 95_test_vectors.md J1. -/
theorem test_jmp_abs :
    gives ⟨0x0201#16, 0x00#8, 0x00#8, 0x00#8, 0xFF#8, 0x00#8⟩ [] 24 0x30004C
      ⟨0x3001#16, 0x00#8, 0x00#8, 0x00#8, 0xFF#8, 0x00#8⟩ 3 [] = true := by decide +kernel

/-- `6C FF 30`: spec 95_test_vectors.md J2. -/
theorem test_jmp_ind_crosses_page :
    gives ⟨0x0201#16, 0x00#8, 0x00#8, 0x00#8, 0xFF#8, 0x00#8⟩ [(0x3100, 0x40#8)] 24 0x30FF6C
      ⟨0x4001#16, 0x00#8, 0x00#8, 0x00#8, 0xFF#8, 0x00#8⟩ 6 [] = true := by decide +kernel

/-- `7C FF 30`: spec 95_test_vectors.md J3. -/
theorem test_jmp_indX :
    gives ⟨0x0201#16, 0x00#8, 0x02#8, 0x00#8, 0xFF#8, 0x00#8⟩ [(0x3102, 0x40#8)] 24 0x30FF7C
      ⟨0x4001#16, 0x00#8, 0x02#8, 0x00#8, 0xFF#8, 0x00#8⟩ 6 [] = true := by decide +kernel

/-- `20 00 03`: spec 95_test_vectors.md 2.4. -/
theorem test_jsr :
    gives ⟨0x0201#16, 0x00#8, 0x00#8, 0x00#8, 0xFF#8, 0x00#8⟩ [] 24 0x030020
      ⟨0x0301#16, 0x00#8, 0x00#8, 0x00#8, 0xFD#8, 0x00#8⟩ 6 [(0x01FF#16, 0x02#8), (0x01FE#16, 0x02#8)] = true := by decide +kernel

/-- `60`: spec 95_test_vectors.md 2.4. -/
theorem test_rts :
    gives ⟨0x0301#16, 0x00#8, 0x00#8, 0x00#8, 0xFD#8, 0x00#8⟩ [(0x01FE, 0x02#8), (0x01FF, 0x02#8)] 8 0x60
      ⟨0x0204#16, 0x00#8, 0x00#8, 0x00#8, 0xFF#8, 0x00#8⟩ 6 [] = true := by decide +kernel

/-- `40`: spec 95_test_vectors.md 2.4. -/
theorem test_rti :
    gives ⟨0x0201#16, 0x00#8, 0x00#8, 0x00#8, 0xFC#8, 0x00#8⟩ [(0x01FD, 0xFF#8), (0x01FF, 0x40#8)] 8 0x40
      ⟨0x4001#16, 0x00#8, 0x00#8, 0x00#8, 0xFF#8, 0xFF#8⟩ 6 [] = true := by decide +kernel

/-- `00 EA`: spec 95_test_vectors.md 2.4. -/
theorem test_brk :
    gives ⟨0x0201#16, 0x00#8, 0x00#8, 0x00#8, 0xFF#8, 0x09#8⟩ [(0xFFFF, 0x50#8)] 16 0xEA00
      ⟨0x5001#16, 0x00#8, 0x00#8, 0x00#8, 0xFC#8, 0x05#8⟩ 7 [(0x01FF#16, 0x02#8), (0x01FE#16, 0x02#8), (0x01FD#16, 0x39#8)] = true := by decide +kernel

/-- `48`: spec 95_test_vectors.md S1. -/
theorem test_pha_wraps :
    gives ⟨0x0201#16, 0x5A#8, 0x00#8, 0x00#8, 0x00#8, 0x00#8⟩ [] 8 0x48
      ⟨0x0202#16, 0x5A#8, 0x00#8, 0x00#8, 0xFF#8, 0x00#8⟩ 3 [(0x0100#16, 0x5A#8)] = true := by decide +kernel

/-- `DA`: spec 95_test_vectors.md S2. -/
theorem test_phx :
    gives ⟨0x0201#16, 0x00#8, 0x33#8, 0x00#8, 0xFF#8, 0x00#8⟩ [] 8 0xDA
      ⟨0x0202#16, 0x00#8, 0x33#8, 0x00#8, 0xFE#8, 0x00#8⟩ 3 [(0x01FF#16, 0x33#8)] = true := by decide +kernel

/-- `5A`: spec 95_test_vectors.md S3. -/
theorem test_phy :
    gives ⟨0x0201#16, 0x00#8, 0x00#8, 0x33#8, 0xFF#8, 0x00#8⟩ [] 8 0x5A
      ⟨0x0202#16, 0x00#8, 0x00#8, 0x33#8, 0xFE#8, 0x00#8⟩ 3 [(0x01FF#16, 0x33#8)] = true := by decide +kernel

/-- `08`: spec 95_test_vectors.md S4. -/
theorem test_php_forces_bits :
    gives ⟨0x0201#16, 0x00#8, 0x00#8, 0x00#8, 0xFF#8, 0x00#8⟩ [] 8 0x08
      ⟨0x0202#16, 0x00#8, 0x00#8, 0x00#8, 0xFE#8, 0x00#8⟩ 3 [(0x01FF#16, 0x30#8)] = true := by decide +kernel

/-- `68`: spec 95_test_vectors.md S6. -/
theorem test_pla_wraps :
    gives ⟨0x0201#16, 0x00#8, 0x00#8, 0x00#8, 0xFF#8, 0x00#8⟩ [(0x0100, 0x80#8)] 8 0x68
      ⟨0x0202#16, 0x80#8, 0x00#8, 0x00#8, 0x00#8, 0x80#8⟩ 4 [] = true := by decide +kernel

/-- `FA`: spec 95_test_vectors.md S7. -/
theorem test_plx :
    gives ⟨0x0201#16, 0x00#8, 0x09#8, 0x00#8, 0xFE#8, 0x00#8⟩ [] 8 0xFA
      ⟨0x0202#16, 0x00#8, 0x00#8, 0x00#8, 0xFF#8, 0x02#8⟩ 4 [] = true := by decide +kernel

/-- `7A`: spec 95_test_vectors.md S8. -/
theorem test_ply :
    gives ⟨0x0201#16, 0x00#8, 0x00#8, 0x09#8, 0xFE#8, 0x00#8⟩ [] 8 0x7A
      ⟨0x0202#16, 0x00#8, 0x00#8, 0x00#8, 0xFF#8, 0x02#8⟩ 4 [] = true := by decide +kernel

/-- `28`: spec 95_test_vectors.md S9. -/
theorem test_plp_all_bits :
    gives ⟨0x0201#16, 0x00#8, 0x00#8, 0x00#8, 0xFE#8, 0x00#8⟩ [(0x01FF, 0xFF#8)] 8 0x28
      ⟨0x0202#16, 0x00#8, 0x00#8, 0x00#8, 0xFF#8, 0xFF#8⟩ 4 [] = true := by decide +kernel

/-- `18`: spec 95_test_vectors.md 2.5. -/
theorem test_clc :
    gives ⟨0x0201#16, 0x00#8, 0x00#8, 0x00#8, 0xFF#8, 0xFF#8⟩ [] 8 0x18
      ⟨0x0202#16, 0x00#8, 0x00#8, 0x00#8, 0xFF#8, 0xFE#8⟩ 2 [] = true := by decide +kernel

/-- `38`: spec 95_test_vectors.md 2.5. -/
theorem test_sec :
    gives ⟨0x0201#16, 0x00#8, 0x00#8, 0x00#8, 0xFF#8, 0x00#8⟩ [] 8 0x38
      ⟨0x0202#16, 0x00#8, 0x00#8, 0x00#8, 0xFF#8, 0x01#8⟩ 2 [] = true := by decide +kernel

/-- `58`: spec 95_test_vectors.md 2.5. -/
theorem test_cli :
    gives ⟨0x0201#16, 0x00#8, 0x00#8, 0x00#8, 0xFF#8, 0xFF#8⟩ [] 8 0x58
      ⟨0x0202#16, 0x00#8, 0x00#8, 0x00#8, 0xFF#8, 0xFB#8⟩ 2 [] = true := by decide +kernel

/-- `78`: spec 95_test_vectors.md 2.5. -/
theorem test_sei :
    gives ⟨0x0201#16, 0x00#8, 0x00#8, 0x00#8, 0xFF#8, 0x00#8⟩ [] 8 0x78
      ⟨0x0202#16, 0x00#8, 0x00#8, 0x00#8, 0xFF#8, 0x04#8⟩ 2 [] = true := by decide +kernel

/-- `D8`: spec 95_test_vectors.md 2.5. -/
theorem test_cld :
    gives ⟨0x0201#16, 0x00#8, 0x00#8, 0x00#8, 0xFF#8, 0xFF#8⟩ [] 8 0xD8
      ⟨0x0202#16, 0x00#8, 0x00#8, 0x00#8, 0xFF#8, 0xF7#8⟩ 2 [] = true := by decide +kernel

/-- `F8`: spec 95_test_vectors.md 2.5. -/
theorem test_sed :
    gives ⟨0x0201#16, 0x00#8, 0x00#8, 0x00#8, 0xFF#8, 0x00#8⟩ [] 8 0xF8
      ⟨0x0202#16, 0x00#8, 0x00#8, 0x00#8, 0xFF#8, 0x08#8⟩ 2 [] = true := by decide +kernel

/-- `B8`: spec 95_test_vectors.md 2.5. -/
theorem test_clv :
    gives ⟨0x0201#16, 0x00#8, 0x00#8, 0x00#8, 0xFF#8, 0xFF#8⟩ [] 8 0xB8
      ⟨0x0202#16, 0x00#8, 0x00#8, 0x00#8, 0xFF#8, 0xBF#8⟩ 2 [] = true := by decide +kernel

/-- `EA`: spec 95_test_vectors.md 2.5. -/
theorem test_nop :
    gives ⟨0x0201#16, 0x00#8, 0x00#8, 0x00#8, 0xFF#8, 0x00#8⟩ [] 8 0xEA
      ⟨0x0202#16, 0x00#8, 0x00#8, 0x00#8, 0xFF#8, 0x00#8⟩ 2 [] = true := by decide +kernel

/-- `03`: spec 95_test_vectors.md 2.5. -/
theorem test_nop1 :
    gives ⟨0x0201#16, 0x00#8, 0x00#8, 0x00#8, 0xFF#8, 0x00#8⟩ [] 8 0x03
      ⟨0x0202#16, 0x00#8, 0x00#8, 0x00#8, 0xFF#8, 0x00#8⟩ 1 [] = true := by decide +kernel

/-- `02 11`: spec 95_test_vectors.md 2.5. -/
theorem test_nop_imm :
    gives ⟨0x0201#16, 0x00#8, 0x00#8, 0x00#8, 0xFF#8, 0x00#8⟩ [] 16 0x1102
      ⟨0x0203#16, 0x00#8, 0x00#8, 0x00#8, 0xFF#8, 0x00#8⟩ 2 [] = true := by decide +kernel

/-- `44 10`: spec 95_test_vectors.md 2.5. -/
theorem test_nop_zp :
    gives ⟨0x0201#16, 0x00#8, 0x00#8, 0x00#8, 0xFF#8, 0x00#8⟩ [] 16 0x1044
      ⟨0x0203#16, 0x00#8, 0x00#8, 0x00#8, 0xFF#8, 0x00#8⟩ 3 [] = true := by decide +kernel

/-- `54 10`: spec 95_test_vectors.md 2.5. -/
theorem test_nop_zpx :
    gives ⟨0x0201#16, 0x00#8, 0x00#8, 0x00#8, 0xFF#8, 0x00#8⟩ [] 16 0x1054
      ⟨0x0203#16, 0x00#8, 0x00#8, 0x00#8, 0xFF#8, 0x00#8⟩ 4 [] = true := by decide +kernel

/-- `DC 00 30`: spec 95_test_vectors.md 2.5. -/
theorem test_nop_abs :
    gives ⟨0x0201#16, 0x00#8, 0x00#8, 0x00#8, 0xFF#8, 0x00#8⟩ [] 24 0x3000DC
      ⟨0x0204#16, 0x00#8, 0x00#8, 0x00#8, 0xFF#8, 0x00#8⟩ 4 [] = true := by decide +kernel

/-- `5C 00 30`: spec 95_test_vectors.md 2.5. -/
theorem test_nop_5c :
    gives ⟨0x0201#16, 0x00#8, 0x00#8, 0x00#8, 0xFF#8, 0x00#8⟩ [] 24 0x30005C
      ⟨0x0204#16, 0x00#8, 0x00#8, 0x00#8, 0xFF#8, 0x00#8⟩ 8 [] = true := by decide +kernel

/-- `69 46` with D and C set: $58 + $46 + 1 is $05, in 3 cycles (spec 95_test_vectors.md 2.2). -/
theorem test_adc_decimal :
    (match step (place ⟨0x0201#16, 0x58#8, 0#8, 0#8, 0xFF#8, 0x09#8⟩ [] 16 0x4669) with
      | .next t => t.regs.a == 0x05#8 && t.eng.cycles == 10
      | _ => false) = true := by decide +kernel

/-- `E9 21` with D and C set: $12 - $21 is $91, in 3 cycles (spec 95_test_vectors.md 2.2). -/
theorem test_sbc_decimal :
    (match step (place ⟨0x0201#16, 0x12#8, 0#8, 0#8, 0xFF#8, 0x09#8⟩ [] 16 0x21E9) with
      | .next t => t.regs.a == 0x91#8 && t.eng.cycles == 10
      | _ => false) = true := by decide +kernel

/-- The decimal sums and differences of spec 95_test_vectors.md 2.2, with their carries. -/
theorem test_decimal_tables :
    addDecimal 0x09#8 0x01#8 false = (0x10#8, false) ∧ addDecimal 0x99#8 0x01#8 false = (0x00#8, true) ∧
    addDecimal 0x58#8 0x46#8 true = (0x05#8, true) ∧ addDecimal 0x50#8 0x50#8 false = (0x00#8, true) ∧
    subDecimal 0x00#8 0x01#8 true = (0x99#8, false) ∧ subDecimal 0x40#8 0x13#8 true = (0x27#8, true) ∧
    subDecimal 0x32#8 0x02#8 false = (0x29#8, true) ∧ subDecimal 0x12#8 0x21#8 true = (0x91#8, false) := by decide

/-- `DB`: STP stops after two cycles, the fetch among them, with PC one past the opcode (spec 95_test_vectors.md 2.5). -/
theorem test_stp :
    (match step (place ⟨0x0201#16, 0x23#8, 0#8, 0#8, 0xFF#8, 0x04#8⟩ [] 8 0xDB) with
      | .next t => t.eng.stopped && t.regs.pc == 0x0201#16 && t.regs.a == 0x23#8 && t.eng.cycles == 8 && t.bp.addr.value == 0x0201#16
      | _ => false) = true := by decide +kernel

/-- `CB` under `nop`: three cycles, PC one past the next opcode (spec 95_test_vectors.md 2.5, R347). -/
theorem test_wai_nop :
    (match step { place ⟨0x0201#16, 0x23#8, 0#8, 0#8, 0xFF#8, 0#8⟩ [] 8 0xCB with waiSemantics := .nop } with
      | .next t => decide (t.regs = ⟨0x0202#16, 0x23#8, 0#8, 0#8, 0xFF#8, 0#8⟩) && t.eng.cycles == 10
      | _ => false) = true := by decide +kernel

/-- `CB` under `wait_for_irq` with IRQB asserted and I set: "WAI with IRQB already asserted behaves as a 3-cycle no-op" (spec R347). -/
theorem test_wai_masked_irq :
    (match step { (place ⟨0x0201#16, 0#8, 0#8, 0#8, 0xFF#8, 0x04#8⟩ [] 8 0xCB).act (.irqVote 3 false) with waiSemantics := .waitForIrq } with
      | .next t => decide (t.regs = ⟨0x0202#16, 0#8, 0#8, 0#8, 0xFF#8, 0x04#8⟩) && t.eng.cycles == 10 && t.eng.mode == .none
      | _ => false) = true := by decide +kernel

/-- WAI refuses under `refuse`, which is the default (spec R8, R347). -/
theorem test_wai_refuses :
    (match step (place ⟨0x0201#16, 0#8, 0#8, 0#8, 0xFF#8, 0#8⟩ [] 8 0xCB) with
      | .refused r => decide (r = .waiExecuted)
      | _ => false) = true := by decide +kernel

/-- WAI waits under `wait_for_irq`, then IRQB asserted with I clear takes it into interrupt entry (spec R347). -/
theorem test_wai_wakes :
    (match step { place ⟨0x0201#16, 0#8, 0#8, 0#8, 0xFF#8, 0#8⟩ [(0xFFFF, 0x50#8)] 8 0xCB with
        waiSemantics := .waitForIrq, script := [[], [], [.irqVote 3 false]] } with
      | .next t => t.eng.idx == 2 && (match step t with
        | .next u => u.fetched && u.eng.mode == .irq
        | _ => false)
      | _ => false) = true := by decide +kernel

/-- The bus cycles of INC $10, its fetch left out: MLB is 0 for the locked three (spec 95_test_vectors.md M1). -/
theorem test_trace_inc_zp :
    trace 4 (place ⟨0x0201#16, 0#8, 0#8, 0#8, 0xFF#8, 0#8⟩ [(0x0010, 0xFF#8)] 16 0x10E6) =
      [⟨7, 0x0201#16, true, false, true, true, none⟩, ⟨8, 0x0010#16, true, false, true, false, none⟩,
       ⟨9, 0x0010#16, true, false, true, false, none⟩, ⟨10, 0x0010#16, false, false, true, false, some 0x00#8⟩] := by
  decide +kernel

/-- The bus cycles of an IRQ entry in place of NOP at $0200 (spec 95_test_vectors.md X1). -/
theorem test_trace_irq :
    trace 7 { place ⟨0x0201#16, 0#8, 0#8, 0#8, 0xFF#8, 0x03#8⟩ [(0xFFFF, 0x50#8)] 8 0xEA with script := [[.irqVote 0 false]] } =
      [⟨7, 0x0200#16, true, false, true, true, none⟩, ⟨8, 0x01FF#16, false, false, true, true, some 0x02#8⟩,
       ⟨9, 0x01FE#16, false, false, true, true, some 0x00#8⟩, ⟨10, 0x01FD#16, false, false, true, true, some 0x23#8⟩,
       ⟨11, 0xFFFE#16, true, false, false, true, none⟩, ⟨12, 0xFFFF#16, true, false, false, true, none⟩,
       ⟨13, 0x5000#16, true, true, true, true, none⟩] := by decide +kernel

/-- The bus cycles of `F0 10` at $02FD with Z set, its fetch left out: a row for each of the two extra edges, which hold the target's fetch,
and no bus cycle driven on them (spec 95_test_vectors.md V6, R182, R183). -/
theorem test_trace_extra :
    let s := place ⟨0x02FE#16, 0#8, 0#8, 0#8, 0xFF#8, 0x02#8⟩ [] 16 0x10F0
    trace 5 s =
      [⟨7, 0x02FE#16, true, false, true, true, none⟩, ⟨8, 0x030F#16, true, true, true, true, none⟩,
       ⟨9, 0x030F#16, true, true, true, true, none⟩, ⟨10, 0x030F#16, true, true, true, true, none⟩,
       ⟨11, 0x0310#16, true, false, true, true, none⟩] ∧
    drivenCycles 5 s =
      [⟨7, 0x02FE#16, true, false, true, true, none⟩, ⟨8, 0x030F#16, true, true, true, true, none⟩,
       ⟨11, 0x0310#16, true, false, true, true, none⟩] := by decide +kernel

/-- Two edges with RDY false "anywhere" leave the trace as it was: they are not processed (spec 95_test_vectors.md X6, R161, R182). -/
theorem test_trace_ignored :
    let s := place ⟨0x0201#16, 0#8, 0#8, 0#8, 0xFF#8, 0#8⟩ [(0x0010, 0xFF#8)] 16 0x10E6
    trace 6 { s with script := [[], [.ready false], [], [.ready true]] } = trace 4 s := by decide +kernel

/-- `flags()` of $24 is `nvRbdIzc` (spec R29). -/
theorem test_flag_string : flagString 0x24#8 = "nvRbdIzc" := by decide +kernel

/-- The width of a Bus is clamped to 0 to 32, and its value taken modulo 2 to that width (spec R8, R66, M3). -/
theorem test_bus_width :
    busWidth (-1) = 0 ∧ busWidth 16 = 16 ∧ busWidth 32 = 32 ∧ busWidth 40 = 32 ∧ ((Bus.new "W" 40 0).put 0x1_0000_0005).value.toNat = 5 ∧
      ((Bus.new "Z" 0 1).put 7).value.toNat = 0 ∧ (Bus.new "DATA" Config.dataWidth 0x123).value.toNat = 0x23 := by decide

/-- A listener that votes while it is called: on the rising edge listener 1 pulls the line low, so both are called with the falling edge
before listener 2 is called with the rising one (spec R63, R65). -/
theorem test_nested_dispatch :
    OpenCollector.dispatch (fun l e => if l = 1 ∧ e = .rising then [.vote 9 false] else []) 20 ⟨"IRQB", [(2, false)], [1, 2]⟩
        [.act (.vote 2 true)] =
      (⟨"IRQB", [(2, true), (9, false)], [1, 2]⟩, [⟨1, .rising⟩, ⟨1, .falling⟩, ⟨2, .falling⟩, ⟨2, .rising⟩], []) := by decide

/-- A listener registered during a dispatch is not called by it, one unregistered during it still is (spec R63). -/
theorem test_registration_during_dispatch :
    OpenCollector.dispatch (fun l _ => if l = 1 then [.register 3, .unregister 2, .set true] else []) 20 ⟨"IRQB", [(2, true)], [1, 2]⟩
        [.act (.detach 5), .act (.vote 2 false)] =
      (⟨"IRQB", [(2, false)], [1, 3]⟩, [⟨1, .falling⟩, ⟨2, .falling⟩], []) := by decide

/-- A device whose configuration is missing is not built (spec R79). -/
theorem test_device_without_base_refused : Device.construct 1 .ram [] none = .error (.missingKey "base address") := rfl

/-- An external master drives the address bus only while RDY is false (spec R76, R415). -/
theorem test_master_needs_rdy :
    (State.reset.act (.master 0x1234#16 0x56#8 true)).bp.addr.value = 0xFFFD#16 ∧
      ((State.reset.act (.ready false)).act (.master 0x1234#16 0x56#8 true)).bp.addr.value = 0x1234#16 := by decide +kernel

/-! ### Witnesses: for every statement with hypotheses, what meets them

The hypothesis of most is `Ready`: `place` makes such states, whatever the registers and the instruction. -/

theorem solid_ram (cells : Memory) : Solid [Device.fullRam cells] :=
  ⟨fun d hd => by rw [List.mem_singleton.1 hd]; exact DeviceKind.noConfusion,
   fun a => ⟨_, List.mem_singleton.2 rfl, by simp [Device.selects, Device.fullRam]⟩⟩

/-- `place` makes ready states: IRQB is not asserted. -/
theorem place_ready (r : Regs) (cells : Memory) (nbits w : Nat) : (place r cells nbits w).Ready := by
  have hs : Solid (place r cells nbits w).devices := (((solid_ram cells).takeAll _ _).takeAll _ _).takeAll _ _
  exact ⟨⟨⟨rfl, rfl, rfl, rfl, rfl⟩, hs, rfl, rfl⟩, rfl, .inl rfl⟩

/-- The registers of the witnesses. -/
def start : Regs := ⟨0x0201#16, 0x12#8, 0x34#8, 0x56#8, 0xFF#8, 0x00#8⟩

/-- A ready state: `EA` fetched at $0200. -/
def ready : State := place start [] 8 0xEA

theorem ready_ready : ready.Ready := place_ready _ _ _ _

/-- IRQB asserted, with this P and this latched interrupt. -/
def asked (p : Byte) (m : Mode) : State := ((place { start with p := p } [] 8 0xEA).act (.irqVote 0 false)).setMode m

theorem asked_interruptible (p : Byte) (m : Mode) : (asked p m).Interruptible :=
  ⟨⟨rfl, rfl, rfl, rfl, rfl⟩, (place_ready _ _ _ _).solid, rfl, rfl⟩

/-- A ready state with IRQB asserted: I masks it. -/
theorem asked_ready {p : Byte} (h : flag bitI p = true) : (asked p .none).Ready := ⟨asked_interruptible _ _, rfl, .inr h⟩

/-- A state in which WAI waits, with IRQB asserted or not. -/
def waiting (irqb : Bool) : State :=
  { ready.act (.irqVote 0 irqb) with
    waiSemantics := .waitForIrq, eng := ⟨.wai, 2, .instr .wai, .internal, .read, .none, 0, none, false, 9⟩ }

theorem waiting_waiting (irqb : Bool) : (waiting irqb).Waiting :=
  ⟨⟨rfl, rfl, rfl, rfl, rfl⟩, ready_ready.solid, rfl, ⟨rfl, rfl, rfl⟩, ⟨rfl, rfl⟩, rfl, rfl, rfl⟩

/-- `next`, as a Bool: the outcome is a next state with `f`. -/
def goesTo (o : Outcome) (f : State → Bool) : Bool :=
  match o with
  | .next t => f t
  | .fault _ | .refused _ => false

theorem next_of_goesTo {o : Outcome} {f : State → Bool} (h : goesTo o f = true) : ∃ t, o = .next t ∧ f t = true := by
  cases o with
  | next t => exact ⟨t, rfl, h⟩
  | fault _ => cases h
  | refused _ => cases h

theorem witness_DecodingAnEncodingGivesItBack : Insn.wellFormed ⟨.bbs7, [0x00#8, 0xFF#8]⟩ = true := by decide

theorem witness_EveryDecodingIsAnEncoding : decodeInsn [0xFF#8, 0x00#8, 0xFF#8, 0xEA#8] = .ok (⟨.bbs7, [0x00#8, 0xFF#8]⟩, [0xEA#8]) := by
  decide

/-- One cycle for each clause: the fetch, a vector read, a locked write, and one with none of them. -/
theorem witness_ControlLinesAreTheLiterals :
    (cyclesOf .stp)[0]? = some fetch ∧ (cyclesOf .intr)[6]? = some (vec .vecHi .npch) ∧
    (cyclesOf .absxRmw)[6]? = some (wrLocked .absX .data) ∧ (cyclesOf .absxRmw)[3]? = some (rd .absX .null) := by decide

/-- One listener and two levels: one keeps the level, one is a transition. -/
theorem witness_SignalsNotifyOnTransitions :
    (Signal.mk "RDY" true [4]).level = true ∧ false ≠ (Signal.mk "RDY" true [4]).level := by decide

/-- Listeners that register and unregister, of a Signal and of an OpenCollector. -/
theorem witness_DispatchCallsTheSnapshot :
    (let behaviour : Nat → Edge → List ListenerAct := fun l _ => [.register (l + 1), .unregister l]
      ∀ l e', ∀ a ∈ behaviour l e', (∃ k, a = .register k) ∨ ∃ k, a = .unregister k) ∧
    (let behaviour : Nat → Edge → List CollectorAct := fun l _ => [.register (l + 1), .unregister l]
      ∀ l e', ∀ a ∈ behaviour l e', (∃ k, a = .register k) ∨ ∃ k, a = .unregister k) := by
  refine ⟨?_, ?_⟩ <;> intro behaviour l e' a ha <;> rcases List.mem_cons.1 ha with rfl | ha
  · exact .inl ⟨_, rfl⟩
  · exact .inr ⟨_, List.mem_singleton.1 ha⟩
  · exact .inl ⟨_, rfl⟩
  · exact .inr ⟨_, List.mem_singleton.1 ha⟩

/-- Listener 1 answers a rising edge by setting the Signal low: the nested dispatch and the rest of the outer one run to their ends. -/
theorem witness_DispatchCallsTheSnapshot_signal :
    let behaviour : Nat → Edge → List ListenerAct := fun l e => if l = 1 ∧ e = .rising then [.set false] else []
    let g : Signal := ⟨"RDY", true, [1, 2]⟩
    behaviour 1 .rising = [.set false] ∧ false ≠ g.level ∧
      Signal.dispatch behaviour 3 (g.set false).1 (notifyAll g.listeners .falling) =
        (⟨"RDY", false, [1, 2]⟩, [⟨1, .falling⟩, ⟨2, .falling⟩], []) ∧
      Signal.dispatch behaviour 2 ⟨"RDY", false, [1, 2]⟩ [.notify 2 .rising] = (⟨"RDY", false, [1, 2]⟩, [⟨2, .rising⟩], []) := by decide

/-- The same of an OpenCollector, where listener 1 answers by a vote. -/
theorem witness_DispatchCallsTheSnapshot_collector :
    let behaviour : Nat → Edge → List CollectorAct := fun l e => if l = 1 ∧ e = .rising then [.vote 9 false] else []
    let oc : OpenCollector := ⟨"IRQB", [], [1, 2]⟩
    behaviour 1 .rising = [.vote 9 false] ∧ (oc.vote 9 false).1.level ≠ oc.level ∧
      OpenCollector.dispatch behaviour 3 (oc.vote 9 false).1 (notifyAll oc.listeners .falling) =
        (⟨"IRQB", [(9, false)], [1, 2]⟩, [⟨1, .falling⟩, ⟨2, .falling⟩], []) ∧
      OpenCollector.dispatch behaviour 2 ⟨"IRQB", [(9, false)], [1, 2]⟩ [.notify 2 .rising] =
        (⟨"IRQB", [(9, false)], [1, 2]⟩, [⟨2, .rising⟩], []) := by decide

/-- An absent listener and a listener beside it, of each kind of line. -/
theorem witness_RegistrationIsIdempotent :
    (5 : Nat) ∉ (Signal.mk "RDY" true [4]).listeners ∧ (5 : Nat) ∉ (OpenCollector.mk "IRQB" [] [4]).listeners ∧ (4 : Nat) ≠ 5 := by decide

/-- Two drivers, one pulling the line low. -/
theorem witness_OpenCollectorIsWiredAnd :
    (OpenCollector.mk "IRQB" [(2, true), (7, false)] [1]).votes.Pairwise fun v w => v.1 < w.1 := by decide

theorem witness_MemoryWritesReadBack : Memory.wf [(0x01FE, 0x20#8)] = true ∧ 0xFFFF < 2 ^ 16 := by decide

theorem witness_EqualMemoriesAreEqualData :
    Memory.wf [(0x01FE, 0x20#8)] = true ∧ ∀ a, a < 2 ^ 16 → Memory.read [(0x01FE, 0x20#8)] a = Memory.read [(0x01FE, 0x20#8)] a :=
  ⟨by decide, fun _ _ => rfl⟩

/-- A read cycle that no device decodes. -/
theorem witness_DeviceEdge_unanswered :
    let s : State := { State.reset with devices := [] }
    s.bp.rwb.level = true ∧ ∀ d ∈ s.devices, d.selects s.bp.addr.value = false := by decide

/-- A read cycle that two devices decode, the ROM called last. -/
theorem witness_DeviceEdge_last :
    let rom : Device := ⟨1, 0xF000#16, 0xF000#16, .rom, [(0xFFFD, 0x02#8)]⟩
    let s : State := { State.reset with devices := [Device.fullRam []] ++ rom :: [] }
    s.bp.rwb.level = true ∧ s.devices = [Device.fullRam []] ++ rom :: [] ∧ rom.selects s.bp.addr.value = true ∧
      rom.kind ≠ .external ∧ ∀ e ∈ ([] : List Device), e.selects s.bp.addr.value = false := by decide

/-- The same with an external device called last. -/
theorem witness_DeviceEdge_external :
    let port : Device := ⟨1, 0xF000#16, 0xF000#16, .external, []⟩
    let s : State := { State.reset with devices := [Device.fullRam []] ++ port :: [] }
    s.bp.rwb.level = true ∧ s.devices = [Device.fullRam []] ++ port :: [] ∧ port.selects s.bp.addr.value = true ∧
      port.kind = .external ∧ ∀ e ∈ ([] : List Device), e.selects s.bp.addr.value = false := by decide

/-- A write cycle that RAM decodes, that a ROM decodes, and that a second RAM does not. -/
theorem witness_DeviceEdge_write :
    let rom : Device := ⟨1, 0xF000#16, 0xF000#16, .rom, [(0xFFFD, 0x02#8)]⟩
    let low : Device := ⟨2, 0x0000#16, 0xF000#16, .ram, []⟩
    let s : State := { State.reset.setLines false false true true with devices := [Device.fullRam [(0x01FE, 0x20#8)], rom, low] }
    s.bp.rwb.level = false ∧ s.devices[0]? = some (Device.fullRam [(0x01FE, 0x20#8)]) ∧
      (Device.fullRam [(0x01FE, 0x20#8)]).selects s.bp.addr.value = true ∧ (Device.fullRam [(0x01FE, 0x20#8)]).kind = .ram ∧
      s.devices[1]? = some rom ∧ rom.selects s.bp.addr.value = true ∧ rom.kind ≠ .ram ∧
      s.devices[2]? = some low ∧ low.selects s.bp.addr.value = false := by decide

theorem witness_IgnoredEdges_rdy : (State.reset.act (.ready false)).bp.rdy.level = false := by decide

theorem witness_IgnoredEdges_stopped :
    (State.reset.setStopped true).eng.stopped = true ∧ (State.reset.setStopped true).bp.resb.level = true := by decide

theorem witness_ExtraEdgesOnlyCount :
    (State.reset.setExtra 2).bp.rdy.level = true ∧ (State.reset.setExtra 2).eng.stopped = false ∧ 0 < (State.reset.setExtra 2).eng.extra := by
  decide

/-- IRQB asserted and I clear, with nothing latched. -/
theorem witness_IrqIsLatchedOnlyUnmasked_latched :
    let s := (ready.act (.irqVote 0 false))
    s.bp.resb.level = true ∧ flag bitI s.regs.p = false ∧ s.bp.irqb.level = false ∧ s.eng.mode = .none := by decide

/-- Three ways not to latch: masked, not asserted, something latched already. -/
theorem witness_IrqIsLatchedOnlyUnmasked_not :
    State.reset.bp.resb.level = true ∧ flag bitI State.reset.regs.p = true ∧ ready.bp.resb.level = true ∧ ready.bp.irqb.level = true ∧
      (ready.setMode .reset).eng.mode ≠ .none := by decide

/-- A stopped CPU with RESB asserted. -/
theorem witness_AssertedResetAbandonsTheInstruction :
    let s := (ready.setStopped true).act (.reset true)
    s.script = [] ∧ s.bp.phi2.level = true ∧ s.bp.rdy.level = true ∧ s.bp.resb.level = false ∧ s.eng.extra = 0 := by decide

theorem witness_StepRunsTheFetchedInstruction : ready.fetched = true ∧ ready.dataBus = Instr.nop.opcode := by decide +kernel

/-- NOP has run, from a ready state with IRQB not asserted. -/
theorem witness_StepsFollowTheProgramCounter : ∃ t r n, exec .nop ready = .next t ∧ ready.Ran t r n ∧ t.bp.irqb.level = true := by
  obtain ⟨c, t, -, -, -, he, hr, -⟩ := exec_idle (i := .nop) ready_ready (by decide) (fun _ => rfl)
  exact ⟨t, _, _, he, hr, hr.irqb⟩

/-- NOP has run with IRQB asserted and I set. -/
theorem witness_StepsFollowTheProgramCounter_masked :
    ∃ t r n, exec .nop (asked 0x04#8 .none) = .next t ∧ (asked 0x04#8 .none).Ran t r n ∧ flag bitI r.p = true := by
  obtain ⟨c, t, hc, -, -, he, hr, -⟩ := exec_idle (i := .nop) (asked_ready (p := 0x04#8) (by decide)) (by decide) (fun _ => rfl)
  refine ⟨t, _, _, he, hr, ?_⟩
  show flag bitI c.regs.p = true
  rw [hc]; decide

/-- CLI has run with IRQB asserted: I is clear. -/
theorem witness_StepsFollowTheProgramCounter_unmasked :
    ∃ t r n, exec .cli (asked 0x04#8 .none) = .next t ∧ (asked 0x04#8 .none).Ran t r n ∧ t.bp.irqb.level = false ∧ flag bitI r.p = false := by
  obtain ⟨c, t, -, -, -, he, hr, -⟩ := exec_idle (i := .cli) (asked_ready (p := 0x04#8) (by decide)) (by decide) (fun _ => rfl)
  exact ⟨t, _, _, he, hr, hr.irqb, flag_setFlag_self _ (by decide) _ _⟩

theorem witness_LoadsSetTheirRegister :
    ready.Ready ∧ Instr.mnemonic .ldaIndX = .lda ∧ Instr.mnemonic .ldxAbsY = .ldx ∧ Instr.mnemonic .ldyAbsX = .ldy :=
  ⟨ready_ready, rfl, rfl, rfl⟩

theorem witness_StoresStoreTheirRegister :
    ready.Ready ∧ Instr.mnemonic .staIndY = .sta ∧ Instr.mnemonic .stxZpY = .stx ∧ Instr.mnemonic .styAbs = .sty ∧
      Instr.mnemonic .stzAbsX = .stz := ⟨ready_ready, rfl, rfl, rfl, rfl⟩

theorem witness_TransfersCopyTheirRegister : ready.Ready := ready_ready

theorem witness_LogicCombinesAWithTheOperand :
    ready.Ready ∧ Instr.mnemonic .oraInd = .ora ∧ Instr.mnemonic .andIndY = .and ∧ Instr.mnemonic .eorImm = .eor :=
  ⟨ready_ready, rfl, rfl, rfl⟩

theorem witness_BinaryAdcAndSbcAddWithCarry :
    ready.Ready ∧ flag bitD ready.regs.p = false ∧ Instr.mnemonic .adcIndX = .adc ∧ Instr.mnemonic .sbcAbsY = .sbc :=
  ⟨ready_ready, by decide, rfl, rfl⟩

/-- `69 99` and `E9 99` with D set and $99 in A, both BCD at their greatest. -/
theorem witness_DecimalAdcAndSbcAddDigits :
    let s := place ⟨0x0201#16, 0x99#8, 0#8, 0#8, 0xFF#8, 0x09#8⟩ [] 16 0x9969
    let u := place ⟨0x0201#16, 0x99#8, 0#8, 0#8, 0xFF#8, 0x09#8⟩ [] 16 0x99E9
    (s.Ready ∧ flag bitD s.regs.p = true ∧ Instr.mnemonic .adcImm = .adc ∧ s.effAddr (Instr.list .adcImm) = some 0x0201#16 ∧
      isBcd s.regs.a = true ∧ isBcd (s.peek 0x0201#16) = true) ∧
    (u.Ready ∧ flag bitD u.regs.p = true ∧ Instr.mnemonic .sbcImm = .sbc ∧ u.effAddr (Instr.list .sbcImm) = some 0x0201#16 ∧
      isBcd u.regs.a = true ∧ isBcd (u.peek 0x0201#16) = true) :=
  ⟨⟨place_ready _ _ _ _, by decide, rfl, rfl, by decide, by decide +kernel⟩,
   ⟨place_ready _ _ _ _, by decide, rfl, rfl, by decide, by decide +kernel⟩⟩

/-- `69 0A` and `E9 0A` with D set: the low digit is one past the greatest. -/
theorem witness_DecimalOnOtherOperandsLeavesAFree :
    let s := place ⟨0x0201#16, 0x99#8, 0#8, 0#8, 0xFF#8, 0x09#8⟩ [] 16 0x0A69
    let u := place ⟨0x0201#16, 0x99#8, 0#8, 0#8, 0xFF#8, 0x09#8⟩ [] 16 0x0AE9
    (s.Ready ∧ flag bitD s.regs.p = true ∧ Instr.mnemonic .adcImm = .adc ∧ s.effAddr (Instr.list .adcImm) = some 0x0201#16 ∧
      (isBcd s.regs.a && isBcd (s.peek 0x0201#16)) = false) ∧
    (u.Ready ∧ flag bitD u.regs.p = true ∧ Instr.mnemonic .sbcImm = .sbc ∧ u.effAddr (Instr.list .sbcImm) = some 0x0201#16 ∧
      (isBcd u.regs.a && isBcd (u.peek 0x0201#16)) = false) :=
  ⟨⟨place_ready _ _ _ _, by decide, rfl, rfl, by decide +kernel⟩, ⟨place_ready _ _ _ _, by decide, rfl, rfl, by decide +kernel⟩⟩

theorem witness_ComparesSetFlagsFromSubtraction :
    ready.Ready ∧ (Instr.mnemonic .cmpInd = .cmp ∧ (0x12#8 : Byte) = ready.regs.a) ∧
      (Instr.mnemonic .cpxAbs = .cpx ∧ (0x34#8 : Byte) = ready.regs.x) ∧ (Instr.mnemonic .cpyZp = .cpy ∧ (0x56#8 : Byte) = ready.regs.y) :=
  ⟨ready_ready, ⟨rfl, rfl⟩, ⟨rfl, rfl⟩, rfl, rfl⟩

theorem witness_BitTestsTheOperand : ready.Ready ∧ Instr.mnemonic .bitImm = .bit ∧ Instr.mnemonic .bitAbsX = .bit :=
  ⟨ready_ready, rfl, rfl⟩

theorem witness_ShiftsOfAGoThroughCarry : ready.Ready := ready_ready

theorem witness_RegisterIncrementsWrap : ready.Ready := ready_ready

/-- One form of each, with what the statement's hypothesis asks of its result. -/
theorem witness_ShiftsOfMemoryStoreTheResult :
    ready.Ready ∧ (Instr.list .aslAbsX ≠ .imp ∧ Instr.mnemonic .aslAbsX = .asl) ∧ (Instr.list .lsrZp ≠ .imp ∧ Instr.mnemonic .lsrZp = .lsr) ∧
      (Instr.list .rolAbs ≠ .imp ∧ Instr.mnemonic .rolAbs = .rol) ∧ (Instr.list .rorZpX ≠ .imp ∧ Instr.mnemonic .rorZpX = .ror) :=
  ⟨ready_ready, by decide, by decide, by decide, by decide⟩

theorem witness_MemoryIncrementsWrap :
    ready.Ready ∧ (Instr.list .incAbsX ≠ .imp ∧ Instr.mnemonic .incAbsX = .inc) ∧ (Instr.list .decZp ≠ .imp ∧ Instr.mnemonic .decZp = .dec) :=
  ⟨ready_ready, by decide, by decide⟩

theorem witness_TsbAndTrbTestThenModify : ready.Ready ∧ Instr.mnemonic .tsbAbs = .tsb ∧ Instr.mnemonic .trbZp = .trb :=
  ⟨ready_ready, rfl, rfl⟩

/-- The first and the last bit. -/
theorem witness_RmbAndSmbChangeOneBit : ready.Ready ∧ Instr.mnemonic .rmb0 = .rmb 0 ∧ Instr.mnemonic .smb7 = .smb 7 :=
  ⟨ready_ready, rfl, rfl⟩

/-- BPL is taken here, BMI is not, BRA always is. -/
theorem witness_BranchesGoToTheirTarget :
    ready.Ready ∧ Instr.list .bpl = .rel ∧ Instr.list .bmi = .rel ∧ Instr.list .bra = .rel ∧ flag bitN ready.regs.p = false :=
  ⟨ready_ready, rfl, rfl, rfl, by decide⟩

/-- Bit 0 of the zero-page byte is 0: BBR0 is taken, BBS0 is not. -/
theorem witness_BitBranchesTestTheZeroPage :
    ready.Ready ∧ Instr.mnemonic .bbr0 = .bbr 0 ∧ Instr.mnemonic .bbs0 = .bbs 0 ∧
      (ready.peek (zpAddr ready.operand1)).getLsbD 0 = false := ⟨ready_ready, rfl, rfl, by decide +kernel⟩

theorem witness_JumpsGoToTheirTarget : ready.Ready := ready_ready
theorem witness_JsrPushesItsLastAddress : ready.Ready := ready_ready
theorem witness_RtsGoesPastThePulledAddress : ready.Ready := ready_ready
theorem witness_RtiRestoresStatusAndPc : ready.Ready := ready_ready
theorem witness_BrkEntersThroughItsVector : ready.Ready := ready_ready

theorem witness_PushesStoreOnTheStack :
    ready.Ready ∧ (0x12#8 : Byte) = ready.regs.a ∧ (0x34#8 : Byte) = ready.regs.x ∧ (0x56#8 : Byte) = ready.regs.y ∧
      (0x30#8 : Byte) = ready.regs.p ||| 0x30#8 := ⟨ready_ready, rfl, rfl, rfl, rfl⟩

theorem witness_PullsReadFromTheStack : ready.Ready := ready_ready

theorem witness_FlagInstructionsSetTheirFlag : ready.Ready ∧ Instr.clv = .clv ∧ 6 = 6 ∧ false = false := ⟨ready_ready, rfl, rfl, rfl⟩

theorem witness_NoOpsOnlyAdvance :
    ready.Ready ∧ Instr.mnemonic .nop = .nop ∧ Instr.mnemonic .und03 = .undefinedNop ∧ Instr.mnemonic .und5C = .undefinedNop :=
  ⟨ready_ready, rfl, rfl, rfl⟩

/-- For each value of the parameter a ready state with IRQB not asserted, and one with IRQB asserted and I set. -/
theorem witness_WaiFollowsItsParameter (v : WaiSemantics) :
    (State.Ready { ready with waiSemantics := v } ∧ State.waiSemantics { ready with waiSemantics := v } = v ∧
      ready.bp.irqb.level = true) ∧
    (State.Ready { asked 0x04#8 .none with waiSemantics := v } ∧ State.waiSemantics { asked 0x04#8 .none with waiSemantics := v } = v ∧
      (asked 0x04#8 .none).bp.irqb.level = false) :=
  ⟨⟨⟨⟨⟨rfl, rfl, rfl, rfl, rfl⟩, ready_ready.solid, rfl, rfl⟩, rfl, .inl rfl⟩, rfl, rfl⟩,
   ⟨⟨⟨⟨rfl, rfl, rfl, rfl, rfl⟩, (asked_interruptible 0x04#8 .none).solid, rfl, rfl⟩, rfl,
     .inr (show flag bitI (asked 0x04#8 .none).regs.p = true by decide)⟩, rfl, rfl⟩⟩

/-- WAI waits, with IRQB asserted and with IRQB not asserted. -/
theorem witness_WaiFollowsItsParameter_waiting :
    ((waiting true).Waiting ∧ (waiting true).bp.irqb.level = true) ∧ (waiting false).Waiting ∧ (waiting false).bp.irqb.level = false :=
  ⟨⟨waiting_waiting _, rfl⟩, waiting_waiting _, rfl⟩

theorem witness_StpStopsTheCpu : ready.Ready := ready_ready

theorem witness_StoppedCpuStaysStopped :
    (ready.setStopped true).script = [] ∧ (ready.setStopped true).bp.phi2.level = true ∧ (ready.setStopped true).eng.stopped = true ∧
      (ready.setStopped true).bp.resb.level = true := by decide

theorem witness_IrqTakesTheInstructionsPlace :
    (asked 0x03#8 .none).Interruptible ∧ (asked 0x03#8 .none).eng.mode = .none ∧ (asked 0x03#8 .none).bp.irqb.level = false ∧
      flag bitI (asked 0x03#8 .none).regs.p = false := ⟨asked_interruptible _ _, rfl, rfl, by decide⟩

/-- A state for each latched interrupt. -/
theorem witness_LatchedInterruptEntersThroughItsVector (m : Mode) : (asked 0x04#8 m).Interruptible ∧ (asked 0x04#8 m).eng.mode = m :=
  ⟨asked_interruptible _ _, rfl⟩

theorem witness_CliAdmitsAnAssertedIrqAtOnce :
    (asked 0x04#8 .none).Interruptible ∧ (asked 0x04#8 .none).eng.mode = .none ∧ (asked 0x04#8 .none).bp.irqb.level = false ∧
      flag bitI (asked 0x04#8 .none).regs.p = true := ⟨asked_interruptible _ _, rfl, rfl, by decide⟩

/-- The state right after reset has the invariant. -/
theorem reset_inv : State.reset.Inv := by
  refine ⟨?_, ?_, ?_, ?_, ?_, ?_, ?_, ?_, ?_⟩ <;> decide

/-- Reset has the invariant and the step from it answers a next state. -/
theorem witness_EveryStepKeepsTheInvariant : State.reset.Inv ∧ ∃ t, step State.reset = .next t :=
  ⟨reset_inv, by
    obtain ⟨t, ht, -⟩ := next_of_goesTo (o := step State.reset) (f := fun _ => true) (by decide +kernel)
    exact ⟨t, ht⟩⟩

theorem witness_NoStepFaults : State.reset.Inv := reset_inv

/-- An instruction that is neither STP nor WAI, with IRQB not asserted and with IRQB masked. -/
theorem witness_EveryInstructionCompletes :
    ready.Ready ∧ (asked 0x04#8 .none).Ready ∧ (asked 0x04#8 .none).bp.irqb.level = false ∧ Instr.nop ≠ .stp ∧ Instr.nop ≠ .wai :=
  ⟨ready_ready, asked_ready (by decide), rfl, by decide, by decide⟩

/-- WAI under `nop`, and under `wait_for_irq` with IRQB masked. -/
theorem witness_EveryInstructionCompletes_wai :
    Instr.wai ≠ .stp ∧ (State.Ready { ready with waiSemantics := .nop } ∧ State.waiSemantics { ready with waiSemantics := .nop } = .nop) ∧
      State.Ready { asked 0x04#8 .none with waiSemantics := .waitForIrq } ∧
      State.waiSemantics { asked 0x04#8 .none with waiSemantics := .waitForIrq } = .waitForIrq ∧
      (asked 0x04#8 .none).bp.irqb.level = false :=
  ⟨by decide, ⟨(witness_WaiFollowsItsParameter .nop).1.1, rfl⟩, (witness_WaiFollowsItsParameter .waitForIrq).2.1, rfl, rfl⟩

theorem witness_OnlyWriteCyclesChangeMemory :
    ready.Ready ∧ (∀ c ∈ cyclesOf (Instr.list .jmpInd), c.rw = .read) ∧ ∃ t, exec .jmpInd ready = .next t :=
  ⟨ready_ready, by decide, by
    obtain ⟨t, ht, -⟩ := next_of_goesTo (o := exec .jmpInd ready) (f := fun _ => true) (by decide +kernel)
    exact ⟨t, ht⟩⟩

/-- TXS changes S here. -/
theorem witness_OnlyStackInstructionsWriteS : ready.Ready ∧ ∃ t, exec .txs ready = .next t ∧ t.regs.s ≠ ready.regs.s :=
  ⟨ready_ready, by
    obtain ⟨t, ht, hf⟩ := next_of_goesTo (o := exec .txs ready) (f := fun t => t.regs.s == 0x34#8) (by decide +kernel)
    exact ⟨t, ht, by rw [beq_iff_eq.1 hf]; decide⟩⟩

/-- PLP of $FF changes bits 5, 4, 3, 2 and 6 here. -/
theorem witness_StatusBitsHaveTheirWriters :
    let s := place { start with s := 0xFE#8 } [(0x01FF, 0xFF#8)] 8 0x28
    s.Ready ∧ ∃ t, exec .plp s = .next t ∧ ∀ k ∈ [bitR, bitB, bitD, bitI, bitV], flag k t.regs.p ≠ flag k s.regs.p :=
  ⟨place_ready _ _ _ _, by
    obtain ⟨t, ht, hf⟩ := next_of_goesTo (o := exec .plp (place { start with s := 0xFE#8 } [(0x01FF, 0xFF#8)] 8 0x28))
      (f := fun t => t.regs.p == 0xFF#8) (by decide +kernel)
    exact ⟨t, ht, by rw [beq_iff_eq.1 hf]; decide⟩⟩

end Sys2Proof.Tests
end

section
/-!
PROOFS of the statements about the state: the invariant of the engine, interrupt entry, and how steps follow one another.
-/

namespace Sys2Proof.Machine

/-- Settles O54: a step is a run of cycles, and every cycle keeps the invariant. -/
theorem everyStepKeepsTheInvariant : Obligations.EveryStepKeepsTheInvariant := by
  intro s t h ht
  rw [step_eq_resume] at ht
  exact (runCycles_inv (runFuel s) h).2 t ht

/-- Settles O55: at reset the engine is at a boundary, where nothing is latched and interrupt entry alone is pending. -/
theorem resetHasTheInvariant : Obligations.ResetHasTheInvariant where
  index := .inl (cyclesOf_pos _)
  list := rfl
  pending _ := rfl
  fetch h := absurd h (by decide)
  extra := by decide
  noNmi := by decide
  entry _ h := absurd h (by decide)
  clock := rfl
  memory := by decide

/-- Settles O52: the latched mode has a vector, and interrupt entry goes through it. -/
theorem latchedInterruptEntersThroughItsVector : Obligations.LatchedInterruptEntersThroughItsVector := by
  intro i s v h hv
  have hm : s.eng.mode.vector = some v := by
    rcases hv with ⟨hm, rfl⟩ | ⟨hm, rfl⟩ | ⟨hm, rfl⟩ <;> rw [hm] <;> rfl
  obtain ⟨t, ht, he, -⟩ := exec_entry i h hm
  exact ⟨t, ht, he⟩

/-- Settles O20: the opcode that the last instruction fetched stands on DATA, and the next step runs it or, where an unmasked IRQ is
asserted, interrupt entry in its place. -/
theorem stepsFollowTheProgramCounter : Obligations.StepsFollowTheProgramCounter := by
  intro i s t r n _ h
  have hp : t.regs.p = r.p := by rw [h.regs]
  refine ⟨by rw [step, if_pos h.fetched, h.opcode], by rw [h.regs], fun hm => h.ready ?_, fun hq hI => ?_⟩
  · rw [State.Masked, hp]; exact hm
  · have hn : ¬t.Masked := by simp [State.Masked, hp, hq, hI]
    obtain ⟨u, hu, he, -⟩ := h.enters hn
    exact ⟨u, hu, he⟩

end Sys2Proof.Machine
end

section
/-!
PROOFS of the statements that say which instructions write a register or a flag. What neither the cycles of an instruction's list nor its
deferred effect change in the registers is as before after the instruction (`exec_keeps`); so a writer is known by its list and its mnemonic.
-/

namespace Sys2Proof.Machine

/-! ### What the stages of an edge leave in the registers and on the lines -/

theorem takeInput_of_noInput {s : State} (h : s.script = []) : s.takeInput = s := by simp only [State.takeInput, h]

/-- An offset that is captured writes D and, where the branch is taken, PC (spec R167). -/
theorem branchEval_frame (s : State) (v : Byte) : (s.branchEval v).bp = s.bp ∧ ∃ pc, (s.branchEval v).regs = { s.regs with pc := pc } := by
  unfold State.branchEval
  split
  · split <;> exact ⟨rfl, _, rfl⟩
  · exact ⟨rfl, _, rfl⟩

/-- A capture drives no line; it writes the registers that its tag names, and a branch that is taken writes PC (spec R166, R167). -/
theorem capture_parts (s : State) : s.capture.bp = s.bp ∧ ∃ pc, s.capture.regs =
    { capRegs s.eng.prevTag s.eng.prevRw s.dataBus s.latch s.regs with pc := pc } := by
  unfold State.capture
  cases s.eng.prevRw with
  | write => exact ⟨rfl, _, rfl⟩
  | read =>
    cases s.eng.prevTag
    case data => exact branchEval_frame (s.setD s.dataBus) s.dataBus
    all_goals exact ⟨rfl, _, rfl⟩

theorem driveAddress_regs (s : State) (t : AddrTag) : (s.driveAddress t).regs = addrRegs t s.regs := by cases t <;> rfl

theorem internal_regs (m : Mnemonic) (s : State) : (internal m s).regs = internalRegs m s.regs s.latch := by cases m <;> rfl

/-- Only the status push of BRK and of interrupt entry is followed by a write of P (spec R378). -/
theorem afterStatusPush_regs (s : State) : s.afterStatusPush.regs =
    if s.eng.list = .brk ∨ s.eng.list = .intr then { s.regs with p := enteredStatus s.regs.p } else s.regs := by
  unfold State.afterStatusPush; split <;> rfl

theorem afterStatusPush_bp (s : State) : s.afterStatusPush.bp = s.bp := by unfold State.afterStatusPush; split <;> rfl

theorem driveData_regs (s : State) (c : Cycle) : (s.driveData c).regs = dataRegs c s.eng s.regs s.latch := by
  unfold State.driveData dataRegs
  cases c.rw with
  | write =>
    cases c.data
    case p => exact afterStatusPush_regs _
    all_goals rfl
  | read =>
    cases c.data
    case internal =>
      cases hi : s.eng.instr with
      | intr => rfl
      | instr i => exact internal_regs i.mnemonic s
    all_goals rfl

theorem penalty_regs (s : State) (c : Cycle) : (s.penalty c).regs = s.regs := by unfold State.penalty; split <;> rfl

/-- Step 6 writes the registers that the cycle's address and data write (spec R171). -/
theorem drive_regs (s : State) (c : Cycle) : ∃ l, (s.drive c).regs = dataRegs c s.eng (addrRegs c.addr s.regs) l := by
  have he : (s.driveAddress c.addr).eng = s.eng := by cases c.addr <;> rfl
  refine ⟨(s.driveAddress c.addr).latch, ?_⟩
  simp only [State.drive, State.setPrev_regs, penalty_regs, driveData_regs, State.setLines_regs, State.setLines_eng,
    State.setLines_latch, driveAddress_regs, he]

/-- Step 6 drives no input line: RESB is as it was. -/
theorem drive_resb (s : State) (c : Cycle) : (s.drive c).bp.resb = s.bp.resb := by
  have h1 : (s.driveAddress c.addr).bp.resb = s.bp.resb := by cases c.addr <;> rfl
  have h2 : ∀ u : State, (u.driveData c).bp.resb = u.bp.resb := by
    intro u
    unfold State.driveData
    split
    · rw [afterStatusPush_bp]; rfl
    · rfl
    · split
      · rw [internal_bp]
      · rfl
    · rfl
    · rfl
  simp only [State.drive, State.setPrev_bp, penalty_bp, h2, State.setLines_bp_resb, h1]

/-- Steps 6 and 7 of a cycle that does not fault run the cycle at IDX. -/
theorem runCycle_next {s t : State} (h : s.runCycle = .next t) :
    ∃ c, (cyclesOf s.eng.list)[s.eng.idx]? = some c ∧ t = (s.drive c).advance.count := by
  unfold State.runCycle at h
  split at h
  · cases h
  · rename_i c hc
    split at h
    · cases h
    · split at h
      · cases h
      · exact ⟨c, hc, (next_inj h).symm⟩

/-- With RESB not asserted step 2 changes MODE at most (spec R164, R165). -/
theorem sample_setMode {s : State} (h : s.bp.resb.level = true) : ∃ m, s.sample = s.setMode m := by
  unfold State.sample
  rw [if_neg (by rw [h]; decide)]
  split
  · exact ⟨_, rfl⟩
  · exact ⟨s.eng.mode, rfl⟩

/-- Where no input is to come, a cycle is a falling and a rising edge (spec R73, R74). -/
theorem cycle_next {s t : State} (hs : s.script = []) (ht : s.cycle = .next t) : ∃ u, s.clockFalls = .next u ∧ t = u.clockRises := by
  unfold State.cycle at ht
  rw [takeInput_of_noInput hs] at ht
  split at ht
  · rename_i u hu
    exact ⟨u, hu, (next_inj ht).symm⟩
  · cases ht
  · cases ht

/-- On a driven edge no extra cycle is pending (spec R163). -/
theorem extra_of_driven {s : State} (h : s.edgeKind = .driven) : ¬0 < s.eng.extra := by
  unfold State.edgeKind at h
  split at h
  · cases h
  · split at h
    · cases h
    · assumption

/-- The rising edge leaves the CPU and RESB alone (spec R74). -/
theorem clockRises_parts (s : State) : s.clockRises.regs = s.regs ∧ s.clockRises.eng = s.eng ∧ s.clockRises.bp.resb = s.bp.resb ∧
    s.clockRises.script = s.script := by
  unfold State.clockRises State.deviceEdge
  dsimp only
  split <;> exact ⟨rfl, rfl, rfl, rfl⟩

/-! ### An instruction on its way -/

/-- The registers keep `Q` through everything that instruction `i` does: PC may change, and no cycle of its list and no deferred effect
changes anything else that `Q` speaks of. -/
structure Keeps (Q : Regs → Prop) (i : Instr) : Prop where
  pc : ∀ r v, Q r → Q { r with pc := v }
  capture : ∀ c ∈ cyclesOf i.list, ∀ v l r, Q r → Q (capRegs c.data c.rw v l r)
  address : ∀ c ∈ cyclesOf i.list, ∀ r, Q r → Q (addrRegs c.addr r)
  data : ∀ c ∈ cyclesOf i.list, ∀ e r l, e.list = i.list → e.instr = .instr i → Q r → Q (dataRegs c e r l)
  effect : ∀ s : State, Q s.regs → Q (effect i.mnemonic i.list s).regs

/-- Instruction `i` runs, in a state with no input to come and RESB not asserted: its list has been selected, the last cycle driven was one
of its own, no other instruction's effect is due, and the registers have kept `Q`. -/
structure Carries (Q : Regs → Prop) (i : Instr) (s : State) : Prop where
  list : s.eng.list = i.list
  instr : s.eng.instr = .instr i
  last : ∃ c ∈ cyclesOf i.list, s.eng.prevTag = c.data ∧ s.eng.prevRw = c.rw
  pending : ∀ p, s.eng.pending = some p → p = .instr i
  kept : Q s.regs
  resb : s.bp.resb.level = true
  noInput : s.script = []

variable {Q : Regs → Prop} {i : Instr} {s t : State}

/-- Where no more than EXTRA, MODE, STOPPED, CYCLES and the pins but RESB change, the instruction is still on its way. -/
theorem Carries.idle (h : Carries Q i s) {k m : Nat} {mo : Mode} {b : Bool}
    (he : t.eng = { s.eng with extra := k, mode := mo, stopped := b, cycles := m }) (hr : t.regs = s.regs)
    (hb : t.bp.resb = s.bp.resb) (hi : t.script = s.script) : Carries Q i t where
  list := by rw [he]; exact h.list
  instr := by rw [he]; exact h.instr
  last := by rw [he]; exact h.last
  pending := by rw [he]; exact h.pending
  kept := hr ▸ h.kept
  resb := hb ▸ h.resb
  noInput := hi.trans h.noInput

theorem Carries.rise (h : Carries Q i s) : Carries Q i s.clockRises := by
  obtain ⟨hr, he, hb, hi⟩ := clockRises_parts s
  exact h.idle he hr hb hi


theorem Carries.capture (h : Carries Q i s) (hk : Keeps Q i) : Carries Q i s.capture := by
  obtain ⟨hw, k, he, -⟩ := capture_frame s
  obtain ⟨hb, pc, hr⟩ := capture_parts s
  obtain ⟨c, hc, htag, hrw⟩ := h.last
  have hq : Q s.capture.regs := by
    rw [hr, htag, hrw]
    exact hk.pc _ _ (hk.capture c hc _ _ _ h.kept)
  exact ⟨by rw [he]; exact h.list, by rw [he]; exact h.instr, by rw [he]; exact h.last, by rw [he]; exact h.pending, hq,
    by rw [hb]; exact h.resb, hw.script.trans h.noInput⟩

theorem Carries.deferred (h : Carries Q i s) (hk : Keeps Q i) : Carries Q i s.deferred := by
  unfold State.deferred
  split
  · rename_i p hp
    split
    · obtain rfl := h.pending p hp
      have hq := hk.effect s h.kept
      obtain ⟨r, k, m, he⟩ := effect_frame (.instr i) s
      rw [show Machine.effect i.mnemonic i.list s = _ from he] at hq
      rw [he]
      exact ⟨h.list, h.instr, h.last, nofun, hq, h.resb, h.noInput⟩
    · exact h
  · exact h

/-- Step 7 moves IDX, and at the end of the list makes the effect of what ran due (spec R176, R177). -/
theorem Carries.advance (h : Carries Q i s) : Carries Q i s.advance.count := by
  unfold State.advance
  split
  · exact ⟨h.list, h.instr, h.last, h.pending, h.kept, h.resb, h.noInput⟩
  · split
    · exact h.idle rfl rfl rfl rfl
    · split
      · dsimp only
        split <;> exact ⟨h.list, h.instr, h.last, fun p hp => by rw [← Option.some.inj hp]; exact h.instr, h.kept, h.resb, h.noInput⟩
      · exact ⟨h.list, h.instr, h.last, h.pending, h.kept, h.resb, h.noInput⟩

theorem Carries.drive (h : Carries Q i s) (hk : Keeps Q i) {c : Cycle} (hc : c ∈ cyclesOf i.list) : Carries Q i (s.drive c) := by
  obtain ⟨hw, b, k, he, -⟩ := drive_frame s c
  obtain ⟨l, hr⟩ := drive_regs s c
  have hq : Q (s.drive c).regs := by
    rw [hr]
    exact hk.data c hc _ _ _ h.list h.instr (hk.address c hc _ h.kept)
  exact ⟨by rw [he]; exact h.list, by rw [he]; exact h.instr, by rw [he]; exact ⟨c, hc, rfl, rfl⟩, by rw [he]; exact h.pending, hq,
    by rw [drive_resb]; exact h.resb, hw.script.trans h.noInput⟩

/-- Steps 5 to 7 of an edge. -/
theorem Carries.run (h : Carries Q i s) (hk : Keeps Q i) (ht : s.deferred.runCycle = .next t) : Carries Q i t := by
  have hd := h.deferred hk
  obtain ⟨c, hc, rfl⟩ := runCycle_next ht
  rw [hd.list] at hc
  exact (hd.drive hk (List.mem_of_getElem? hc)).advance

/-- A cycle that is no selection edge leaves the instruction on its way (spec R160, R161, R163). -/
theorem Carries.cycle (h : Carries Q i s) (hk : Keeps Q i) (hi : s.eng.idx ≠ 1 ∨ 0 < s.eng.extra) (ht : s.cycle = .next t) :
    Carries Q i t := by
  obtain ⟨u, hu, rfl⟩ := cycle_next h.noInput ht
  refine Carries.rise ?_
  cases hkind : s.edgeKind with
  | ignored =>
    rw [clockFalls_ignored hkind] at hu
    rw [← next_inj hu]
    split
    · exact h.idle rfl rfl rfl rfl
    · exact h
  | extra =>
    rw [clockFalls_extra hkind] at hu
    rw [← next_inj hu]
    exact h.idle rfl rfl rfl rfl
  | driven =>
    rw [clockFalls_driven hkind] at hu
    obtain ⟨m, hm⟩ := sample_setMode (s := (s.setPhi2 false).setStopped false) h.resb
    rw [hm] at hu
    have hc : Carries Q i (((s.setPhi2 false).setStopped false).setMode m) := h.idle rfl rfl rfl rfl
    obtain ⟨-, k, he, -⟩ := capture_frame (((s.setPhi2 false).setStopped false).setMode m)
    have hidx : s.eng.idx ≠ 1 := hi.resolve_right (extra_of_driven hkind)
    rw [State.select, if_neg (by rw [he]; exact hidx)] at hu
    exact (hc.capture hk).run hk hu

/-- A capture leaves the engine as it is. -/
theorem View.Fetched.capture {x : View} (h : x.Fetched) : x.capture.Fetched :=
  ⟨h.idx, h.tag, h.rw, h.extra, h.pending, h.running⟩

/-- Step 4 selects the instruction whose opcode has been captured, where nothing is latched (spec R168, R169). -/
theorem HoldsV.select_carries {ph : Bool} {x : View} {n : Nat} {w : Ambient} (h : HoldsV ph s x n w) (hf : x.Fetched)
    (hm : x.e.mode = .none) (hir : x.l.ir = i.opcode) (hq : Q x.r) : Carries Q i s.select := by
  have hlast : ∃ c ∈ cyclesOf i.list, s.eng.prevTag = c.data ∧ s.eng.prevRw = c.rw :=
    ⟨fetch, List.mem_cons_self .., by rw [h.eng]; exact ⟨hf.tag, hf.rw⟩⟩
  have hp : s.eng.pending = none := by rw [h.eng]; exact hf.pending
  have hr : Q s.regs := by rw [h.regs]; exact hq
  unfold State.select
  rw [if_pos (by rw [h.eng]; exact hf.idx), if_pos (by rw [h.eng]; exact hm)]
  unfold State.beginInstr
  rw [h.latch, hir, decodeOpcode_opcode]
  dsimp only
  split
  · exact ⟨rfl, rfl, hlast, fun p hp => (Option.some.inj hp).symm, hr, h.resb, h.script⟩
  · exact ⟨rfl, rfl, hlast, fun p hp' => absurd (hp.symm.trans hp') nofun, hr, h.resb, h.script⟩

/-- The selection edge of an instruction that no interrupt replaces. -/
theorem State.Ready.selection_carries (h : s.Ready) (hk : Keeps Q i) (hq : Q s.regs) (ht : (s.present i).cycle = .next t) :
    Carries Q i t := by
  obtain ⟨u, hu, rfl⟩ := cycle_next (s := s.present i) h.quiet.noInput ht
  have h0 := Holds.fall (present_holds (i := i) h.toInterruptible) false
  have h1 := Holds.capture h0 (.inl h.pending)
  have hkind : (s.present i).edgeKind = .driven := by
    have hq := h.quiet
    have hx : (s.present i).eng.extra = 0 := h.extra
    have hrun : (s.present i).eng.stopped = false := hq.running
    have hclock : (s.present i).bp.phi2.level = true := hq.clock
    have hrdy : (s.present i).bp.rdy.level = true := hq.rdy
    simp [State.edgeKind, hx, hrun, hclock, hrdy]
  rw [clockFalls_driven hkind, setStopped_self (s := (s.present i).setPhi2 false) h.quiet.running, Holds.sample_id h0 h.calm] at hu
  have h2 : Carries Q i ((s.present i).setPhi2 false).capture.select :=
    HoldsV.select_carries (x := (s.present i).view.capture) h1 (present_fetched h.toInterruptible).capture h.mode rfl hq
  exact (h2.run hk hu).rise

/-- Where the next cycle leaves instruction `i` on its way, a run keeps `Q` up to where it pauses. -/
theorem runCycles_keeps (hk : Keeps Q i) (fuel : Nat) (hq : Q s.regs) (hc : ∀ u, s.cycle = .next u → Carries Q i u)
    (ht : runCycles fuel s = .next t) : Q t.regs := by
  induction fuel generalizing s with
  | zero => exact next_inj ht ▸ hq
  | succ fuel ih =>
    unfold runCycles at ht
    split at ht
    · rename_i u hu
      have h1 := hc u hu
      split at ht
      · exact next_inj ht ▸ h1.kept
      · rename_i hp
        have hi : u.eng.idx ≠ 1 ∨ 0 < u.eng.extra := by
          simp only [pauses, Bool.or_eq_true, Bool.and_eq_true, beq_iff_eq, not_or] at hp
          omega
        exact ih h1.kept (fun _ hv => h1.cycle hk hi hv) ht
    · cases ht
    · cases ht

/-- What instruction `i` keeps of the registers is as before where its step ends. -/
theorem exec_keeps (h : s.Ready) (hk : Keeps Q i) (hq : Q s.regs) (ht : exec i s = .next t) : Q t.regs := by
  rw [exec_eq] at ht
  exact runCycles_keeps (s := s.present i) hk _ hq (fun _ hu => h.selection_carries hk hq hu) ht

/-! ### S (spec R23) -/

/-- The instructions whose list moves the stack pointer. -/
theorem list_moves_s (i : Instr) : ((cyclesOf i.list).all (fun c => c.addr != .spPreinc && c.addr != .spPostdec) ||
    decide (i.mnemonic ∈ [.pha, .phx, .phy, .php, .pla, .plx, .ply, .plp, .jsr, .rts, .rti, .brk])) = true := by
  cases i <;> rfl

theorem capRegs_s (t : DataTag) (d : Direction) (v : Byte) (l : Latches) (r : Regs) : (capRegs t d v l r).s = r.s := by
  cases d <;> cases t <;> rfl

theorem addrRegs_s {t : AddrTag} (h1 : t ≠ .spPreinc) (h2 : t ≠ .spPostdec) (r : Regs) : (addrRegs t r).s = r.s := by
  cases t <;> first | rfl | exact absurd rfl h1 | exact absurd rfl h2

theorem internalRegs_s (m : Mnemonic) (r : Regs) (l : Latches) : (internalRegs m r l).s = r.s := by cases m <;> rfl

theorem dataRegs_s (c : Cycle) (e : Engine) (r : Regs) (l : Latches) : (dataRegs c e r l).s = r.s := by
  unfold dataRegs
  split
  · split <;> rfl
  · split
    · rfl
    · exact internalRegs_s ..
  · rfl

theorem decimal_s (s : State) (op : Byte → Byte → Bool → Byte × Bool) : (s.decimal op).regs.s = s.regs.s := by
  unfold State.decimal
  dsimp only
  split <;> rfl

/-- Of the deferred effects only that of TXS writes S (spec R211). -/
theorem effect_s {m : Mnemonic} (h : m ≠ .txs) (l : ListName) (s : State) : (effect m l s).regs.s = s.regs.s := by
  cases m
  case txs => exact absurd rfl h
  case adc | sbc => simp only [effect, effectAdc, effectSbc]; split; exacts [decimal_s .., rfl]
  case asl | lsr | rol | ror | inc | dec => simp only [effect]; split <;> rfl
  all_goals rfl

theorem keeps_s (b : Byte) (h : i.mnemonic ∉ [.txs, .pha, .phx, .phy, .php, .pla, .plx, .ply, .plp, .jsr, .rts, .rti, .brk]) :
    Keeps (fun r => r.s = b) i := by
  have hlist : ∀ c ∈ cyclesOf i.list, c.addr ≠ .spPreinc ∧ c.addr ≠ .spPostdec := by
    intro c hc
    have hall := list_moves_s i
    rw [decide_eq_false (fun hm => h (List.mem_cons_of_mem _ hm)), Bool.or_false] at hall
    simpa using List.all_eq_true.1 hall c hc
  have hm : i.mnemonic ≠ .txs := fun hm => h (by rw [hm]; exact List.mem_cons_self ..)
  exact ⟨fun _ _ hr => hr, fun _ _ _ _ _ hr => (capRegs_s ..).trans hr,
    fun c hc _ hr => (addrRegs_s (hlist c hc).1 (hlist c hc).2 _).trans hr, fun _ _ _ _ _ _ _ hr => (dataRegs_s ..).trans hr,
    fun _ hr => (effect_s hm ..).trans hr⟩

/-- Settles O59: the list of any other instruction moves no stack pointer, and its deferred effect is not that of TXS. -/
theorem onlyStackInstructionsWriteS : Obligations.OnlyStackInstructionsWriteS := by
  intro i s t h ht hne
  by_contra hm
  exact hne (exec_keeps h (keeps_s _ hm) rfl ht)

/-! ### The flags with few writers (spec R27) -/

/-- The mnemonics that write flag `k` of P, where it is none of C, Z and N (spec R27). -/
def flagWriters (k : Nat) : List Mnemonic :=
  if k = bitD then [.sed, .cld, .brk, .plp, .rti]
  else if k = bitI then [.sei, .cli, .brk, .plp, .rti]
  else if k = bitV then [.adc, .sbc, .bit, .clv, .plp, .rti]
  else [.plp, .rti]

theorem plp_rti_write (k : Nat) {m : Mnemonic} (h : m ∈ [.plp, .rti]) : m ∈ flagWriters k := by
  unfold flagWriters
  simp only [List.mem_cons, List.not_mem_nil, or_false] at h
  split_ifs <;> rcases h with rfl | rfl <;> decide

/-- The instructions whose list pulls P. -/
theorem list_pulls_p (i : Instr) : ((cyclesOf i.list).all (fun c => c.data != .p || c.rw != .read) ||
    decide (i.mnemonic ∈ [.plp, .rti])) = true := by
  cases i <;> rfl

/-- BRK alone runs on BRK's list. -/
theorem mnemonic_of_brk {i : Instr} (h : i.list = .brk) : i.mnemonic = .brk := by cases i <;> first | rfl | cases h

theorem capRegs_p {t : DataTag} {d : Direction} (h : ¬(t = .p ∧ d = .read)) (v : Byte) (l : Latches) (r : Regs) :
    (capRegs t d v l r).p = r.p := by
  cases d
  case write => rfl
  case read =>
    cases t
    case p => exact absurd ⟨rfl, rfl⟩ h
    all_goals rfl

theorem addrRegs_p (t : AddrTag) (r : Regs) : (addrRegs t r).p = r.p := by cases t <;> rfl

/-- Entry changes I and D and no other flag (spec R378). -/
theorem flag_enteredStatus {k : Nat} (hi : k ≠ bitI) (hd : k ≠ bitD) (p : Byte) : flag k (enteredStatus p) = flag k p := by
  rw [enteredStatus, flag_setFlag_ne _ _ hd, flag_setFlag_ne _ _ hi]

section
variable {k : Nat} (hz : k ≠ bitZ) (hn : k ≠ bitN) (hc : k ≠ bitC)
include hz hn hc

theorem internalRegs_flag (m : Mnemonic) (r : Regs) (l : Latches) : flag k (internalRegs m r l).p = flag k r.p := by
  cases m
  case asl | lsr | rol | ror => exact flag_shifted hz hn hc _ _
  case inc | dec => exact flag_setNZ hz hn _ _
  case tsb | trb => exact flag_setFlag_ne _ _ hz _ _
  all_goals rfl

/-- Of the cycles that capture nothing into P, the status push of an entry alone changes such a flag (spec R378). -/
theorem dataRegs_flag (c : Cycle) {e : Engine} (h : e.list = .brk ∨ e.list = .intr → k ≠ bitI ∧ k ≠ bitD) (r : Regs) (l : Latches) :
    flag k (dataRegs c e r l).p = flag k r.p := by
  unfold dataRegs
  split
  · split
    · rename_i hl
      exact flag_enteredStatus (h hl).1 (h hl).2 _
    · rfl
  · split
    · rfl
    · exact internalRegs_flag hz hn hc ..
  · rfl

/-- A decimal addition or subtraction leaves every flag but N, V, Z and C (spec R235, R237). -/
theorem decimal_flag (hv : k ≠ bitV) (s : State) (op : Byte → Byte → Bool → Byte × Bool) :
    flag k (s.decimal op).regs.p = flag k s.regs.p := by
  have four : ∀ a b c d p, flag k (setFlag bitV a (setFlag bitN b (setFlag bitZ c (setFlag bitC d p)))) = flag k p := by
    intro a b c d p
    rw [flag_setFlag_ne _ _ hv, flag_setFlag_ne _ _ hn, flag_setFlag_ne _ _ hz, flag_setFlag_ne _ _ hc]
  unfold State.decimal
  dsimp only
  split <;> exact four _ _ _ _ _

theorem putSum_flag (hv : k ≠ bitV) (s : State) (r : Sum) : flag k (s.putSum r).regs.p = flag k s.regs.p := by
  show flag k (setNZ _ (setFlag bitV _ (setFlag bitC _ s.regs.p))) = _
  rw [flag_setNZ hz hn, flag_setFlag_ne _ _ hv, flag_setFlag_ne _ _ hc]

theorem compared_flag (r m p : Byte) : flag k (compared r m p) = flag k p := by
  rw [compared, flag_setNZ hz hn, flag_setFlag_ne _ _ hc]

omit hc in
theorem bitStatus_flag (hv : k ≠ bitV) (b : Bool) (a m p : Byte) : flag k (bitStatus b a m p) = flag k p := by
  unfold bitStatus
  dsimp only
  split
  · exact flag_setFlag_ne _ _ hz _ _
  · rw [flag_setFlag_ne _ _ hv, flag_setFlag_ne _ _ hn, flag_setFlag_ne _ _ hz]

/-- A deferred effect leaves a flag that its mnemonic does not write (spec R27). -/
theorem effect_flag {m : Mnemonic} (h : m ∉ flagWriters k) (l : ListName) (s : State) :
    flag k (effect m l s).regs.p = flag k s.regs.p := by
  have hne : ∀ j, m ∈ flagWriters j → k ≠ j := fun j hj hk => h (hk ▸ hj)
  cases m
  case lda | ldx | ldy | tax | tay | txa | tya | tsx | ora | and | eor | inx | iny | dex | dey | pla | plx | ply =>
    exact flag_setNZ hz hn _ _
  case adc | sbc =>
    have hv : k ≠ bitV := hne bitV (by decide)
    simp only [effect, effectAdc, effectSbc]
    split
    exacts [decimal_flag hz hn hc hv .., putSum_flag hz hn hc hv ..]
  case cmp | cpx | cpy => exact compared_flag hz hn hc _ _ _
  case bit => exact bitStatus_flag hz hn (hne bitV (by decide)) _ _ _ _
  case asl | lsr | rol | ror => simp only [effect]; split; exacts [flag_shifted hz hn hc _ _, rfl]
  case inc | dec => simp only [effect]; split; exacts [flag_setNZ hz hn _ _, rfl]
  case clc | sec => exact flag_setFlag_ne _ _ hc _ _
  case cli | sei => exact flag_setFlag_ne _ _ (hne bitI (by decide)) _ _
  case cld | sed => exact flag_setFlag_ne _ _ (hne bitD (by decide)) _ _
  case clv => exact flag_setFlag_ne _ _ (hne bitV (by decide)) _ _
  all_goals rfl

theorem keeps_flag (b : Bool) (h : i.mnemonic ∉ flagWriters k) : Keeps (fun r => flag k r.p = b) i := by
  have hlist : ∀ c ∈ cyclesOf i.list, ¬(c.data = .p ∧ c.rw = .read) := by
    intro c hcy hp
    have hall := list_pulls_p i
    rw [decide_eq_false (fun hm => h (plp_rti_write k hm)), Bool.or_false] at hall
    simpa [hp.1, hp.2] using List.all_eq_true.1 hall c hcy
  have hentry : i.list = .brk ∨ i.list = .intr → k ≠ bitI ∧ k ≠ bitD := by
    intro hl
    have hm : i.mnemonic = .brk := mnemonic_of_brk (hl.resolve_right (list_ne_intr i))
    rw [hm] at h
    constructor <;> rintro rfl <;> exact h (by decide)
  exact ⟨fun _ _ hr => hr, fun c hcy v l r hr => (congrArg (flag k) (capRegs_p (hlist c hcy) v l r)).trans hr,
    fun c _ r hr => (congrArg (flag k) (addrRegs_p c.addr r)).trans hr,
    fun c _ _ r l hl _ hr => (dataRegs_flag hz hn hc c (fun he => hentry (hl ▸ he)) r l).trans hr,
    fun _ hr => (effect_flag hz hn hc h ..).trans hr⟩

/-- A flag that is none of C, Z and N has changed only where the instruction is one of its writers. -/
theorem exec_flag (h : s.Ready) (ht : exec i s = .next t) (hne : flag k t.regs.p ≠ flag k s.regs.p) : i.mnemonic ∈ flagWriters k := by
  by_contra hm
  exact hne (exec_keeps h (keeps_flag hz hn hc _ hm) rfl ht)

end

/-- Settles O60: each of the five flags has the writers that its part of the statement lists. -/
theorem statusBitsHaveTheirWriters : Obligations.StatusBitsHaveTheirWriters := by
  intro i s t h ht
  exact ⟨exec_flag (k := bitR) (by decide) (by decide) (by decide) h ht, exec_flag (k := bitB) (by decide) (by decide) (by decide) h ht,
    exec_flag (k := bitD) (by decide) (by decide) (by decide) h ht, exec_flag (k := bitI) (by decide) (by decide) (by decide) h ht,
    exec_flag (k := bitV) (by decide) (by decide) (by decide) h ht⟩

end Sys2Proof.Machine
end

section
/-!
PROOFS of the statements about the lines of the Backplane: what `value(b)` notifies, what a dispatch calls, registration and votes (spec
R60 to R65). The laws of the two listener operations and of the vote map stand first; a dispatch over any line is treated once, for both
variants (`dispatchWith`).
-/

namespace Sys2Proof.Machine

/-! ### Setting a Signal (spec R62) -/

/-- Settles O7: both branches of `Signal.set`. -/
theorem signalsNotifyOnTransitions : Obligations.SignalsNotifyOnTransitions :=
  fun _ _ => ⟨rfl, rfl, fun h => if_pos h, fun h => if_neg h⟩

/-! ### Listener sets (spec R64) -/

@[simp] theorem mem_addListener {ls : List Nat} {l k : Nat} : k ∈ addListener ls l ↔ k ∈ ls ∨ k = l := by
  unfold addListener
  split
  · rename_i hl
    exact ⟨.inl, fun h => h.elim id fun hk => hk ▸ hl⟩
  · simp

theorem addListener_of_mem {ls : List Nat} {l : Nat} (h : l ∈ ls) : addListener ls l = ls := if_pos h

@[simp] theorem mem_dropListener {ls : List Nat} {l k : Nat} : k ∈ dropListener ls l ↔ k ∈ ls ∧ k ≠ l := by simp [dropListener]

theorem dropListener_of_not_mem {ls : List Nat} {l : Nat} (h : l ∉ ls) : dropListener ls l = ls :=
  List.filter_eq_self.2 fun k hk => by simpa using ne_of_mem_of_not_mem hk h

@[simp] theorem Signal.register_listeners (g : Signal) (l : Nat) : (g.register l).listeners = addListener g.listeners l := rfl
@[simp] theorem Signal.unregister_listeners (g : Signal) (l : Nat) : (g.unregister l).listeners = dropListener g.listeners l := rfl

theorem Signal.register_of_mem {g : Signal} {l : Nat} (h : l ∈ g.listeners) : g.register l = g := by
  rw [Signal.register, addListener_of_mem h]

theorem Signal.unregister_of_not_mem {g : Signal} {l : Nat} (h : l ∉ g.listeners) : g.unregister l = g := by
  rw [Signal.unregister, dropListener_of_not_mem h]

@[simp] theorem OpenCollector.register_listeners (oc : OpenCollector) (l : Nat) :
    (oc.register l).listeners = addListener oc.listeners l := rfl
@[simp] theorem OpenCollector.unregister_listeners (oc : OpenCollector) (l : Nat) :
    (oc.unregister l).listeners = dropListener oc.listeners l := rfl

theorem OpenCollector.register_of_mem {oc : OpenCollector} {l : Nat} (h : l ∈ oc.listeners) : oc.register l = oc := by
  rw [OpenCollector.register, addListener_of_mem h]

theorem OpenCollector.unregister_of_not_mem {oc : OpenCollector} {l : Nat} (h : l ∉ oc.listeners) : oc.unregister l = oc := by
  rw [OpenCollector.unregister, dropListener_of_not_mem h]

/-- Settles O9: the laws of the listener set, on each kind of line. -/
theorem registrationIsIdempotent : Obligations.RegistrationIsIdempotent := by
  constructor
  · intro g l
    have hl : l ∈ (g.register l).listeners := by simp
    exact ⟨hl, Signal.register_of_mem hl, by simp, Signal.unregister_of_not_mem, rfl, rfl, fun k hk => by simp [hk]⟩
  · intro oc l
    have hl : l ∈ (oc.register l).listeners := by simp
    exact ⟨hl, OpenCollector.register_of_mem hl, by simp, OpenCollector.unregister_of_not_mem, rfl, rfl, fun k hk => by simp [hk]⟩

/-! ### Votes (spec R65) -/

/-- The map of votes in its canonical form: driver identities strictly rising. -/
abbrev VotesSorted (votes : List (Nat × Bool)) : Prop := votes.Pairwise fun v w => v.1 < w.1

/-- A vote replaces the driver's own and leaves the others: where it goes before or over the first entry, the entries behind that one have
higher identities. -/
theorem mem_votesPut {votes : List (Nat × Bool)} (h : VotesSorted votes) (drv : Nat) (b : Bool) (d : Nat) (c : Bool) :
    (d, c) ∈ votesPut votes drv b ↔ (d = drv ∧ c = b) ∨ (d ≠ drv ∧ (d, c) ∈ votes) := by
  induction votes with
  | nil => simp [votesPut]
  | cons v rest ih =>
    obtain ⟨k, w⟩ := v
    obtain ⟨hk, hrest⟩ := List.pairwise_cons.1 h
    have hlt : (d, c) ∈ rest → k < d := hk (d, c)
    have ih := ih hrest
    unfold votesPut
    split
    · simp only [List.mem_cons, Prod.mk.injEq]; grind
    · split <;> simp only [List.mem_cons, Prod.mk.injEq] <;> grind

/-- A vote keeps the map's order. -/
theorem votesPut_sorted {votes : List (Nat × Bool)} (h : VotesSorted votes) (drv : Nat) (b : Bool) :
    VotesSorted (votesPut votes drv b) := by
  induction votes with
  | nil => exact List.pairwise_singleton _ _
  | cons v rest ih =>
    obtain ⟨k, w⟩ := v
    obtain ⟨hk, hrest⟩ := List.pairwise_cons.1 h
    unfold votesPut
    split
    · rename_i hlt
      exact List.pairwise_cons.2 ⟨List.forall_mem_cons.2 ⟨hlt, fun u hu => Nat.lt_trans hlt (hk u hu)⟩, h⟩
    · split
      · rename_i heq
        exact List.pairwise_cons.2 ⟨heq ▸ hk, hrest⟩
      · refine List.pairwise_cons.2 ⟨fun u hu => ?_, ih hrest⟩
        rcases (mem_votesPut hrest drv b u.1 u.2).1 hu with ⟨hu, -⟩ | ⟨-, hu⟩
        · simp only at *; omega
        · exact hk u hu

theorem OpenCollector.level_iff (oc : OpenCollector) : oc.level = true ↔ ∀ v ∈ oc.votes, v.2 = true := List.all_eq_true

/-- Settles O10: a vote and a detach are updates of the map of votes, after which `recompute` calls the listeners where the level has
changed. -/
theorem openCollectorIsWiredAnd : Obligations.OpenCollectorIsWiredAnd := by
  intro oc drv b
  refine ⟨oc.level_iff, rfl, fun h => ⟨votesPut_sorted h drv b, mem_votesPut h drv b, fun d c => ?_⟩, rfl, rfl, rfl, rfl⟩
  simp [OpenCollector.detach, OpenCollector.recompute, and_comm]

/-! ### Dispatch (spec R62, R63, R65) -/

section
variable {σ α β : Type} {listeners : σ → List Nat} {apply : σ → α → σ × Option Edge} {behaviour : Nat → Edge → List α} {view : σ → β}

/-- Acts that make no edge call nobody, and keep what each of them keeps. -/
theorem dispatchWith_quietActs {acts : List α} (h : ∀ a ∈ acts, ∀ line, (apply line a).2 = none ∧ view (apply line a).1 = view line)
    (line : σ) : ∃ fuel line', dispatchWith listeners apply behaviour fuel line (acts.map .act) = (line', [], []) ∧
      view line' = view line := by
  induction acts generalizing line with
  | nil => exact ⟨0, line, rfl, rfl⟩
  | cons a acts ih =>
    obtain ⟨ha, hacts⟩ := List.forall_mem_cons.1 h
    obtain ⟨hedge, hview⟩ := ha line
    obtain ⟨fuel, line', hrun, hline'⟩ := ih hacts (apply line a).1
    refine ⟨fuel + 1, line', ?_, hline'.trans hview⟩
    rw [List.map_cons, dispatchWith, show apply line a = ((apply line a).1, none) from Prod.ext rfl hedge]
    exact hrun

/-- A called listener's acts run to their end before the dispatch goes on (spec R63). -/
theorem dispatchWith_notify {n m : Nat} {line line1 line2 : σ} {l : Nat} {e : Edge} {rest : List (LineTask α)} {nested outer : List Call}
    (hacts : dispatchWith listeners apply behaviour n line ((behaviour l e).map .act) = (line1, nested, []))
    (hrest : dispatchWith listeners apply behaviour m line1 rest = (line2, outer, [])) :
    dispatchWith listeners apply behaviour (n + m + 1) line (.notify l e :: rest) = (line2, ⟨l, e⟩ :: nested ++ outer, []) := by
  rw [dispatchWith, dispatchWith_append hacts hrest]
  rfl

/-- Where the listeners' acts make no edge, a dispatch calls each listener of the snapshot once, in order. -/
theorem dispatchWith_snapshot (e : Edge)
    (h : ∀ l, ∀ a ∈ behaviour l e, ∀ line, (apply line a).2 = none ∧ view (apply line a).1 = view line) (ls : List Nat) (line : σ) :
    ∃ fuel line', dispatchWith listeners apply behaviour fuel line (notifyAll ls e) = (line', ls.map fun l => ⟨l, e⟩, []) ∧
      view line' = view line := by
  induction ls generalizing line with
  | nil => exact ⟨0, line, rfl, rfl⟩
  | cons l ls ih =>
    obtain ⟨n, line1, hacts, hview1⟩ := dispatchWith_quietActs (h l) line
    obtain ⟨m, line2, hrest, hview2⟩ := ih line1
    exact ⟨n + m + 1, line2, dispatchWith_notify hacts hrest, hview2.trans hview1⟩

/-- A listener whose one act makes an edge: the nested dispatch runs to its end, then the outer one goes on. -/
theorem dispatchWith_nested {n m : Nat} {line line1 line2 : σ} {l : Nat} {e e' : Edge} {a : α} {rest : List (LineTask α)}
    {nested outer : List Call} (hb : behaviour l e = [a]) (he : (apply line a).2 = some e')
    (hnested : dispatchWith listeners apply behaviour n (apply line a).1 (notifyAll (listeners (apply line a).1) e') = (line1, nested, []))
    (houter : dispatchWith listeners apply behaviour m line1 rest = (line2, outer, [])) :
    dispatchWith listeners apply behaviour (n + 1 + m + 1) line (.notify l e :: rest) = (line2, ⟨l, e⟩ :: nested ++ outer, []) := by
  refine dispatchWith_notify ?_ houter
  rw [hb, List.map_singleton, dispatchWith, show apply line a = ((apply line a).1, some e') from Prod.ext rfl he]
  simpa only [List.append_nil] using hnested

end

/-- Settles O8: registrations make no edge and keep the level or the votes; a set or a vote that changes the level makes the edge of the
nested dispatch. -/
theorem dispatchCallsTheSnapshot : Obligations.DispatchCallsTheSnapshot := by
  refine ⟨fun behaviour g e h => ?_, fun behaviour oc e h => ?_, ?_, ?_⟩
  · refine dispatchWith_snapshot (view := Signal.level) e (fun l a ha line => ?_) g.listeners g
    obtain ⟨k, rfl⟩ | ⟨k, rfl⟩ := h l e a ha <;> exact ⟨rfl, rfl⟩
  · refine dispatchWith_snapshot (view := OpenCollector.votes) e (fun l a ha line => ?_) oc.listeners oc
    obtain ⟨k, rfl⟩ | ⟨k, rfl⟩ := h l e a ha <;> exact ⟨rfl, rfl⟩
  · intro behaviour g g1 g2 l e b rest n m nested outer hb hlevel hnested houter
    exact ⟨n + 1 + m + 1, dispatchWith_nested hb (if_neg hlevel) hnested houter⟩
  · intro behaviour oc oc1 oc2 l drv e b rest n m nested outer hb hlevel hnested houter
    exact ⟨n + 1 + m + 1, dispatchWith_nested hb (if_neg hlevel) hnested houter⟩

end Sys2Proof.Machine
end

section
/-!
PROOFS of the statements about memory and the device edge (spec R74, R78 to R82).
-/

namespace Sys2Proof.Machine

/-! ### Memory in canonical form -/

/-- Settles O11: the laws of a write, at its own address and at another. -/
theorem memoryWritesReadBack : Obligations.MemoryWritesReadBack := by
  intro m a v h ha
  refine ⟨Memory.wf_write h ha, fun b => ?_⟩
  split
  · rename_i hb
    exact hb ▸ Memory.read_write_self m a v
  · rename_i hb
    exact Memory.read_write_ne m a b v hb

/-- A listed cell is what its address reads as: no earlier cell has that address. -/
theorem Memory.read_of_mem {m : Memory} {a : Nat} {v : Byte} (hm : m.Pairwise fun c d => c.1 < d.1) (h : (a, v) ∈ m) :
    Memory.read m a = v := by
  induction m with
  | nil => cases h
  | cons c m ih =>
    obtain ⟨hc, hm⟩ := List.pairwise_cons.1 hm
    rcases List.mem_cons.1 h with rfl | h
    · exact if_pos rfl
    · exact (if_neg (hc _ h).ne).trans (ih hm h)

/-- An address that does not read as an unlisted one is listed. -/
theorem Memory.mem_of_read_ne {m : Memory} {a : Nat} (h : Memory.read m a ≠ Config.unwrittenByte) : (a, Memory.read m a) ∈ m := by
  induction m with
  | nil => exact absurd rfl h
  | cons c m ih =>
    obtain ⟨k, w⟩ := c
    by_cases hk : k = a
    · simp [Memory.read, hk]
    · simp only [Memory.read, if_neg hk] at h ⊢
      exact List.mem_cons_of_mem _ (ih h)

/-- What a memory in canonical form lists is what reads other than an unlisted address does. -/
theorem Memory.mem_iff_read {m : Memory} (h : Memory.wf m = true) (a : Nat) (v : Byte) :
    (a, v) ∈ m ↔ a < 2 ^ 16 ∧ v ≠ Config.unwrittenByte ∧ Memory.read m a = v := by
  obtain ⟨hsorted, hcells⟩ := (Memory.wf_iff m).1 h
  constructor
  · intro hc
    obtain ⟨ha, hv⟩ := hcells _ hc
    exact ⟨ha, hv, Memory.read_of_mem hsorted hc⟩
  · rintro ⟨-, hv, rfl⟩
    exact Memory.mem_of_read_ne hv

/-- Lists with addresses strictly rising that have the same cells are equal. -/
theorem Memory.eq_of_mem_iff {m n : Memory} (hm : m.Pairwise fun c d => c.1 < d.1) (hn : n.Pairwise fun c d => c.1 < d.1)
    (h : ∀ c, c ∈ m ↔ c ∈ n) : m = n := by
  have : Std.Irrefl fun c d : Host.Cell => c.1 < d.1 := ⟨fun _ => Nat.lt_irrefl _⟩
  have : Std.Antisymm fun c d : Host.Cell => c.1 < d.1 := ⟨fun _ _ hlt hgt => absurd hgt (Nat.lt_asymm hlt)⟩
  exact hm.eq_of_mem_iff hn h

/-- Settles O12: memories in canonical form that read alike list the same cells, in the one order. -/
theorem equalMemoriesAreEqualData : Obligations.EqualMemoriesAreEqualData := by
  intro m n hm hn h
  refine Memory.eq_of_mem_iff ((Memory.wf_iff m).1 hm).1 ((Memory.wf_iff n).1 hn).1 fun c => ?_
  rw [Memory.mem_iff_read hm c.1 c.2, Memory.mem_iff_read hn c.1 c.2]
  exact and_congr_right fun ha => by rw [h c.1 ha]

/-! ### A device's part in a bus cycle (spec R78, R80, R81) -/

theorem Device.answer_of_not_selects {d : Device} {a : Word} (h : d.selects a = false) (acc : Byte × Nat) : d.answer a acc = acc := by
  simp [Device.answer, h]

theorem Device.answer_memory {d : Device} {a : Word} (h : d.selects a = true) (hk : d.kind ≠ .external) (acc : Byte × Nat) :
    d.answer a acc = (Memory.read d.cells a.toNat, acc.2) := by
  cases hd : d.kind
  case external => exact absurd hd hk
  all_goals simp [Device.answer, h, hd]

theorem Device.answer_external {d : Device} {a : Word} (h : d.selects a = true) (hk : d.kind = .external) (acc : Byte × Nat) :
    d.answer a acc = (Config.drawByte acc.2, acc.2 + 1) := by
  simp [Device.answer, h, hk]

/-- A device takes back no free value. -/
theorem Device.le_answer_draws (d : Device) (a : Word) (acc : Byte × Nat) : acc.2 ≤ (d.answer a acc).2 := by
  by_cases h : d.selects a = true
  · by_cases hk : d.kind = .external
    · rw [Device.answer_external h hk]; exact Nat.le_succ _
    · rw [Device.answer_memory h hk]
  · rw [Device.answer_of_not_selects (Bool.eq_false_of_not_eq_true h)]

theorem Device.take_of_ram {d : Device} {a : Word} (h : d.selects a = true) (hk : d.kind = .ram) (v : Byte) :
    d.take a v = { d with cells := Memory.write d.cells a.toNat v } := by
  simp [Device.take, h, hk]

theorem Device.take_of_not_ram {d : Device} {a : Word} (h : d.selects a = false ∨ d.kind ≠ .ram) (v : Byte) : d.take a v = d := by
  rcases h with h | h <;> simp [Device.take, h]

/-! ### All devices in turn (spec R75, R80) -/

theorem answerAll_of_not_selects {ds : List Device} {a : Word} (h : ∀ d ∈ ds, d.selects a = false) (acc : Byte × Nat) :
    answerAll ds a acc = acc := by
  induction ds generalizing acc with
  | nil => rfl
  | cons d ds ih =>
    obtain ⟨hd, hds⟩ := List.forall_mem_cons.1 h
    exact (ih hds (d.answer a acc)).trans (Device.answer_of_not_selects hd acc)

/-- The last device that decodes the address has the last word. -/
theorem answerAll_last {ds : List Device} {a : Word} (before : List Device) (d : Device) (h : ∀ e ∈ ds, e.selects a = false)
    (acc : Byte × Nat) : answerAll (before ++ d :: ds) a acc = d.answer a (answerAll before a acc) := by
  rw [answerAll, List.foldl_append]
  exact answerAll_of_not_selects h _

theorem le_answerAll_draws (ds : List Device) (a : Word) (acc : Byte × Nat) : acc.2 ≤ (answerAll ds a acc).2 := by
  induction ds generalizing acc with
  | nil => exact Nat.le_refl _
  | cons d ds ih => exact Nat.le_trans (d.le_answer_draws a acc) (ih (d.answer a acc))

/-! ### The device edge (spec R74, R78) -/

theorem deviceEdge_read {s : State} (h : s.bp.rwb.level = true) : s.deviceEdge =
    (s.setData (answerAll s.devices s.bp.addr.value (s.dataBus, s.draws)).1).setDraws
      (answerAll s.devices s.bp.addr.value (s.dataBus, s.draws)).2 := if_pos h

theorem deviceEdge_write {s : State} (h : s.bp.rwb.level = false) : s.deviceEdge = s.setDevices (takeAll s.devices s.bp.addr.value s.dataBus) := by
  simp [State.deviceEdge, h]

/-- The device edge changes DATA, the devices and the count of free values at most. -/
theorem deviceEdge_frame (s : State) :
    s.deviceEdge = ((s.setData s.deviceEdge.dataBus).setDevices s.deviceEdge.devices).setDraws s.deviceEdge.draws := by
  cases h : s.bp.rwb.level with
  | true => rw [deviceEdge_read h]; rfl
  | false => rw [deviceEdge_write h]; rfl

/-- Settles O16: the device edge writes none of these parts, and PHI2 is none of these lines. -/
theorem risingEdgesLeaveTheCpuAlone : Obligations.RisingEdgesLeaveTheCpuAlone := by
  intro s
  rw [State.clockRises, deviceEdge_frame]
  exact ⟨rfl, rfl, rfl, rfl, rfl, rfl, rfl, rfl⟩

/-- Settles O13: a read leaves what the last device that decodes the address answers, a write what each device takes. -/
theorem deviceEdgeAnswersInOrder : Obligations.DeviceEdgeAnswersInOrder := by
  refine fun s => ⟨fun hr h => ?unanswered, fun before after d hr hds hd hafter => ?read, fun hw => ?write⟩
  case unanswered => rw [deviceEdge_read hr, answerAll_of_not_selects h]; rfl
  case read =>
    rw [deviceEdge_read hr, hds, answerAll_last before d hafter]
    refine ⟨hds, fun hk => ?_, fun hk => ?_⟩
    · rw [Device.answer_memory hd hk]; rfl
    · rw [Device.answer_external hd hk]
      exact ⟨_, le_answerAll_draws before s.bp.addr.value (s.dataBus, s.draws), rfl, rfl⟩
  case write =>
    rw [deviceEdge_write hw]
    refine ⟨rfl, List.length_map _, fun k d hk => ⟨d.take s.bp.addr.value s.dataBus, ?_, fun hd hram => ?_, fun h => ?_⟩⟩
    · rw [State.setDevices_devices, takeAll, List.getElem?_map, hk]; rfl
    · rw [Device.take_of_ram hd hram]
      exact ⟨rfl, Memory.read_write_self .., fun b hb => Memory.read_write_ne _ _ _ _ hb⟩
    · exact Device.take_of_not_ram h _

end Sys2Proof.Machine
end

section
/-!
PROOFS of the statements about the encoding of instructions: the decoder reads exactly the encodings of well-formed instructions
(`decodeInsn_eq_ok_iff`), an offset byte is the difference it stands for, and the control lines of the 46 lists.
-/

namespace Sys2Proof.Machine

/-! ### Whole instructions as bytes (spec R100, R138) -/

theorem wellFormed_iff (n : Insn) : n.wellFormed = true ↔ n.operands.length = n.instr.operandCount := beq_iff_eq

theorem decodeInsn_truncated {b : Byte} {bytes : List Byte} (h : bytes.length < (decodeOpcode b).operandCount) :
    decodeInsn (b :: bytes) = .error (.truncated (decodeOpcode b)) := if_pos h

theorem decodeInsn_complete {b : Byte} {bytes : List Byte} (h : ¬bytes.length < (decodeOpcode b).operandCount) :
    decodeInsn (b :: bytes) = .ok (⟨decodeOpcode b, bytes.take (decodeOpcode b).operandCount⟩,
      bytes.drop (decodeOpcode b).operandCount) := if_neg h

/-- The decoder reads a well-formed instruction from its encoding, and nothing else from anything else. -/
theorem decodeInsn_eq_ok_iff {bytes rest : List Byte} {n : Insn} :
    decodeInsn bytes = .ok (n, rest) ↔ n.wellFormed = true ∧ encodeInsn n ++ rest = bytes := by
  rw [wellFormed_iff]
  constructor
  · intro h
    cases bytes with
    | nil => cases h
    | cons b bytes =>
      by_cases hlen : bytes.length < (decodeOpcode b).operandCount
      · rw [decodeInsn_truncated hlen] at h
        cases h
      · rw [decodeInsn_complete hlen] at h
        cases h
        refine ⟨List.length_take_of_le (Nat.le_of_not_lt hlen), ?_⟩
        simp [encodeInsn, opcode_decodeOpcode]
  · rintro ⟨hlen, rfl⟩
    have hread : decodeOpcode n.instr.opcode = n.instr := decodeOpcode_opcode n.instr
    have henough : ¬(n.operands ++ rest).length < (decodeOpcode n.instr.opcode).operandCount := by
      simp [hread, hlen]
    refine (decodeInsn_complete henough).trans ?_
    rw [hread, List.take_left' hlen, List.drop_left' hlen]

/-- Settles O2: the decoder reads every encoding of a well-formed instruction. -/
theorem decodingAnEncodingGivesItBack : Obligations.DecodingAnEncodingGivesItBack :=
  fun _ _ h => decodeInsn_eq_ok_iff.2 ⟨h, rfl⟩

/-- The decoder refuses bytes only where they end before the instruction does (spec R137, R138). -/
theorem decodeInsn_eq_error_iff {bytes : List Byte} : (∃ e, decodeInsn bytes = .error e) ↔
    bytes = [] ∨ ∃ b rest, bytes = b :: rest ∧ rest.length < (decodeOpcode b).operandCount := by
  constructor
  · rintro ⟨e, he⟩
    cases bytes with
    | nil => exact .inl rfl
    | cons b rest =>
      refine .inr ⟨b, rest, rfl, ?_⟩
      by_contra hlen
      rw [decodeInsn_complete hlen] at he
      cases he
  · rintro (rfl | ⟨b, rest, rfl, hlen⟩)
    · exact ⟨_, rfl⟩
    · exact ⟨_, decodeInsn_truncated hlen⟩

/-- Settles O3: what the decoder reads is an encoding, and it refuses only bytes that end too soon. -/
theorem everyDecodingIsAnEncoding : Obligations.EveryDecodingIsAnEncoding :=
  fun _ => ⟨fun _ _ h => decodeInsn_eq_ok_iff.1 h, decodeInsn_eq_error_iff⟩

/-- Settles O1: `Instr.opcode` and `decodeOpcode` are inverse to each other. -/
theorem everyOpcodeIsOneInstruction : Obligations.EveryOpcodeIsOneInstruction := ⟨decodeOpcode_opcode, opcode_decodeOpcode⟩

/-- Settles O4: each word is the encoding of its instruction with what follows it. -/
theorem wordsDecodeToTheirInstructions : Obligations.WordsDecodeToTheirInstructions := by
  have word : ∀ (n : Insn) (rest : List Byte), n.wellFormed = true → decodeInsn (encodeInsn n ++ rest) = .ok (n, rest) :=
    decodingAnEncodingGivesItBack
  exact ⟨word ⟨.ldaImm, [0x23#8]⟩ _ rfl, word ⟨.staAbs, [0x00#8, 0x02#8]⟩ _ rfl, word ⟨.adcIndY, [0x20#8]⟩ _ rfl,
    word ⟨.rmb5, [0x20#8]⟩ _ rfl, word ⟨.bbr0, [0x10#8, 0x05#8]⟩ _ rfl, word ⟨.jmpIndX, [0x00#8, 0x03#8]⟩ _ rfl,
    word ⟨.brk, [0xEA#8]⟩ _ rfl, word ⟨.und03, []⟩ _ rfl, word ⟨.und5C, [0x34#8, 0x12#8]⟩ _ rfl⟩

/-! ### Branch offsets (spec R101, R140) -/

theorem loByte_signExtend (rr : Byte) : loByte (rr.signExtend 16) = rr := by
  apply BitVec.eq_of_getLsbD_eq
  intro k hk
  have hk' : k < 16 := by omega
  rw [loByte, BitVec.getLsbD_extractLsb', BitVec.getLsbD_signExtend]
  simp [hk, hk']

/-- The offset of a target is the byte whose sign extension is the distance to it. -/
theorem branchOffset_eq_some_iff {next target : Word} {rr : Byte} :
    branchOffset next target = some rr ↔ rr.signExtend 16 = target - next := by
  unfold branchOffset
  dsimp only
  constructor
  · intro h
    split at h
    · rename_i hreach
      rw [← Option.some.inj h]
      exact hreach
    · cases h
  · intro h
    rw [← h, loByte_signExtend, if_pos rfl]

/-- Settles O5: both sides say that the byte's sign extension is the distance to the target. -/
theorem branchOffsetsReachTheirTargets : Obligations.BranchOffsetsReachTheirTargets := by
  intro next target rr
  rw [branchOffset_eq_some_iff, branchTarget, eq_sub_iff_add_eq, add_comm]

/-! ### Control lines (spec R107) -/

theorem mem_cyclesAfterFetch {l : ListName} {k : Nat} {c : Cycle} (h : (cyclesOf l)[k + 1]? = some c) : c ∈ cyclesAfterFetch l :=
  List.mem_of_getElem? (List.getElem?_cons_succ.symm.trans h)

/-- The control lines of every cycle after the fetch. -/
theorem cyclesAfterFetch_lines (l : ListName) : ∀ c ∈ cyclesAfterFetch l, c.sync = false ∧
    (c.vpb = false ↔ (l = .brk ∨ l = .intr) ∧ (c.addr = .vecLo ∨ c.addr = .vecHi)) ∧
    (c.mlb = false ↔ (l = .zpRmw ∨ l = .zpxRmw ∨ l = .absRmw ∨ l = .absxRmw) ∧ (c.data = .internal ∨ c.data = .data)) := by
  cases l <;> decide

/-- Settles O6: the fetch alone has SYNC 1 and leaves VPB and MLB high; the cycles after it are those of the tables. -/
theorem controlLinesAreTheLiterals : Obligations.ControlLinesAreTheLiterals := by
  intro l k c h
  cases k with
  | zero =>
    obtain rfl : fetch = c := Option.some.inj h
    simp [fetch]
  | succ k =>
    obtain ⟨hsync, hvpb, hmlb⟩ := cyclesAfterFetch_lines l c (mem_cyclesAfterFetch h)
    exact ⟨by simp [hsync], hvpb, hmlb⟩

end Sys2Proof.Machine
end

section
/-!
PROOFS of the statements about how instructions run to their end: no step faults, memory changes on write cycles alone, and every
instruction completes.
-/

namespace Sys2Proof.Machine

variable {s t : State} {i : Instr}

/-- Settles O56: a step is a run of cycles, and none of them faults where the invariant holds. -/
theorem noStepFaults : Obligations.NoStepFaults := by
  intro s f h
  rw [step_eq_resume]
  exact (runCycles_inv (runFuel s) h).1 f

/-! ### Memory changes on write cycles alone (spec R104, R171) -/

/-- RWB is at the level of the last cycle driven (spec R39, R171). -/
def State.RwbDriven (s : State) : Prop := s.bp.rwb.level = (s.eng.prevRw == .read)

theorem advance_prevRw (s : State) : s.advance.eng.prevRw = s.eng.prevRw := by
  unfold State.advance
  split
  · rfl
  · split
    · rfl
    · split
      · dsimp only
        split <;> rfl
      · rfl

theorem drive_rwbDriven (s : State) (c : Cycle) : (s.drive c).advance.count.RwbDriven := by
  have hrwb : (s.drive c).bp.rwb.level = (c.rw == .read) := by
    simp only [State.drive, State.setPrev_bp, penalty_bp, driveData_lines]
    rfl
  have hprev : (s.drive c).advance.count.eng.prevRw = c.rw := advance_prevRw (s.drive c)
  rw [State.RwbDriven, advance_count_bp, hrwb, hprev]

/-- A driven edge drives RWB, and any other leaves it and PREV as they were (spec R161, R163, R171). -/
theorem clockFalls_rwbDriven (h : s.clockFalls = .next t) (hs : s.edgeKind = .driven ∨ s.RwbDriven) : t.RwbDriven := by
  cases hkind : s.edgeKind with
  | ignored =>
    have hd : s.RwbDriven := hs.resolve_left (by rw [hkind]; decide)
    rw [clockFalls_ignored hkind] at h
    rw [← next_inj h]
    split <;> exact hd
  | extra =>
    have hd : s.RwbDriven := hs.resolve_left (by rw [hkind]; decide)
    rw [clockFalls_extra hkind] at h
    rw [← next_inj h]
    exact hd
  | driven =>
    rw [clockFalls_driven hkind] at h
    obtain ⟨c, -, rfl⟩ := runCycle_next h
    exact drive_rwbDriven _ c

/-- The CPU's part in a falling edge changes no device. -/
theorem clockFalls_devices (h : s.clockFalls = .next t) : t.devices = s.devices := by
  cases hkind : s.edgeKind with
  | ignored =>
    rw [clockFalls_ignored hkind] at h
    rw [← next_inj h]
    split <;> rfl
  | extra =>
    rw [clockFalls_extra hkind] at h
    rw [← next_inj h]
    rfl
  | driven =>
    rw [clockFalls_driven hkind] at h
    obtain ⟨c, -, rfl⟩ := runCycle_next h
    have hw := (sample_world ((s.setPhi2 false).setStopped false)).trans ((capture_frame _).1.trans ((select_world _).trans
      ((deferred_world _).trans ((drive_frame _ c).1.trans (advance_world _)))))
    exact hw.devices

/-- The rising edge leaves RWB and PREV as they are (spec R74). -/
theorem clockRises_rwbDriven (h : s.RwbDriven) : s.clockRises.RwbDriven := by
  rw [State.clockRises, deviceEdge_frame]
  exact h

/-- On the rising edge of a read cycle no device takes a byte (spec R78). -/
theorem clockRises_devices (h : s.bp.rwb.level = true) : s.clockRises.devices = s.devices := by
  rw [State.clockRises, deviceEdge_read (s := s.setPhi2 true) h]
  rfl

theorem cycle_rwbDriven (hin : s.script = []) (h : s.cycle = .next t) (hs : s.edgeKind = .driven ∨ s.RwbDriven) : t.RwbDriven := by
  obtain ⟨u, hu, rfl⟩ := cycle_next hin h
  exact clockRises_rwbDriven (clockFalls_rwbDriven hu hs)

/-- A cycle changes no device where the last cycle driven is a read. -/
theorem cycle_devices (hin : s.script = []) (h : s.cycle = .next t) (hs : s.edgeKind = .driven ∨ s.RwbDriven)
    (hread : t.eng.prevRw = .read) : t.devices = s.devices := by
  obtain ⟨u, hu, rfl⟩ := cycle_next hin h
  have hprev : u.eng.prevRw = .read := by rwa [(clockRises_parts u).2.1] at hread
  have hrwb : u.bp.rwb.level = true := by rw [clockFalls_rwbDriven hu hs, hprev]; rfl
  rw [clockRises_devices hrwb, clockFalls_devices hu]

theorem keeps_true (i : Instr) : Keeps (fun _ => True) i :=
  ⟨fun _ _ _ => trivial, fun _ _ _ _ _ _ => trivial, fun _ _ _ _ => trivial, fun _ _ _ _ _ _ _ _ => trivial, fun _ _ => trivial⟩

/-- The last cycle driven is one of the list, and the list only reads. -/
theorem Carries.reads {Q : Regs → Prop} (h : Carries Q i s) (hr : ∀ c ∈ cyclesOf i.list, c.rw = .read) : s.eng.prevRw = .read := by
  obtain ⟨c, hc, -, hrw⟩ := h.last
  exact hrw.trans (hr c hc)

/-- Where the next cycle leaves an instruction whose list only reads on its way, a run changes no device up to where it pauses. -/
theorem runCycles_devices (hr : ∀ c ∈ cyclesOf i.list, c.rw = .read) (fuel : Nat) (hin : s.script = [])
    (hs : s.edgeKind = .driven ∨ s.RwbDriven) (hc : ∀ u, s.cycle = .next u → Carries (fun _ => True) i u)
    (ht : runCycles fuel s = .next t) : t.devices = s.devices := by
  induction fuel generalizing s with
  | zero => rw [next_inj ht]
  | succ fuel ih =>
    unfold runCycles at ht
    split at ht
    · rename_i u hu
      have hcu := hc u hu
      have hdev : u.devices = s.devices := cycle_devices hin hu hs (hcu.reads hr)
      split at ht
      · rw [← next_inj ht, hdev]
      · rename_i hp
        have hi : u.eng.idx ≠ 1 ∨ 0 < u.eng.extra := by
          simp only [pauses, Bool.or_eq_true, Bool.and_eq_true, beq_iff_eq, not_or] at hp
          omega
        rw [← hdev]
        exact ih hcu.noInput (.inr (cycle_rwbDriven hin hu hs)) (fun _ hv => hcu.cycle (keeps_true i) hi hv) ht
    · cases ht
    · cases ht

/-- The selection edge of a fetched instruction is driven (spec R161, R163). -/
theorem State.Ready.present_driven (h : s.Ready) (i : Instr) : (s.present i).edgeKind = .driven := by
  have hx : (s.present i).eng.extra = 0 := h.extra
  have hrun : (s.present i).eng.stopped = false := h.quiet.running
  have hclock : (s.present i).bp.phi2.level = true := h.quiet.clock
  have hrdy : (s.present i).bp.rdy.level = true := h.quiet.rdy
  simp [State.edgeKind, hx, hrun, hclock, hrdy]

/-- Settles O58: every cycle the instruction drives is a read, on which no device takes a byte. -/
theorem onlyWriteCyclesChangeMemory : Obligations.OnlyWriteCyclesChangeMemory := by
  intro i s t h hr ht
  rw [exec_eq] at ht
  exact kept_of_devices h.solid (runCycles_devices (s := s.present i) hr _ h.quiet.noInput (.inl (h.present_driven i))
    (fun _ hu => h.selection_carries (keeps_true i) trivial hu) ht)

/-! ### Every instruction completes (spec R109, R136) -/

/-- Instruction `i` runs from `s` to its end in its base cycles and at most two more. -/
def State.Completes (s : State) (i : Instr) : Prop :=
  ∃ t r n, exec i s = .next t ∧ s.Ran t r n ∧ baseCycles i ≤ n ∧ n ≤ baseCycles i + 2

/-- A plain list that has left a view of a completed instruction, `e0` extra cycles pending, is followed by the deferred effect, which
schedules one more at most. -/
theorem completes_of_run (h : s.Ready) (hl : plainList i.list = true) (hnb : NoBranch (.instr i))
    {r : Regs} {l : Latches} {tag : DataTag} {rw : Direction} {e0 : Nat} {ds : List Device} {v : Byte}
    (hrun : (s.present i).view.run (.instr i) = ⟨r, l, doneEng i tag rw e0 (s.eng.cycles + (baseCycles i - 1)), ds, v⟩)
    (he : e0 ≤ 1) (hrw : e0 = 0 ∨ rw = .read) (hq : s.bp.irqb.level = true ∨ flag bitI r.p = true ∨
      (∀ c, effect i.mnemonic i.list c = c) ∧ (capRegs tag rw v l r).p = r.p)
    (hw : i = .wai → Passes ⟨s.waiSemantics, s.bp.irqb.level⟩) : s.Completes i := by
  obtain ⟨c, t, -, -, hx, -, ht, hran, -, -⟩ := exec_plain h hl hnb hrun he hrw hq hw
  have hextra : (effect i.mnemonic i.list c).eng.extra ≤ c.eng.extra + 1 := effect_extra (.instr i) c
  exact ⟨t, _, _, ht, hran, by omega, by omega⟩

theorem noBranch_of_list (hrel : i.list ≠ .rel) (hzp : i.list ≠ .zpRel) : NoBranch (.instr i) := by
  intro st
  cases i
  case bpl | bmi | bvc | bvs | bcc | bcs | bne | beq | bra => exact absurd rfl hrel
  case bbr0 | bbr1 | bbr2 | bbr3 | bbr4 | bbr5 | bbr6 | bbr7 | bbs0 | bbs1 | bbs2 | bbs3 | bbs4 | bbs5 | bbs6 | bbs7 =>
    exact absurd rfl hzp
  all_goals rfl

theorem mnemonic_of_zpRel (h : i.list = .zpRel) : ∃ b, i.mnemonic = .bbr b ∨ i.mnemonic = .bbs b := by
  revert h; cases i <;> decide

theorem mnemonic_of_push (h : i.list = .push) : i.mnemonic = .pha ∨ i.mnemonic = .phx ∨ i.mnemonic = .phy := by
  revert h; cases i <;> decide

theorem mnemonic_of_rti (h : i.list = .rti) : i.mnemonic = .rti := by
  revert h; cases i <;> decide

theorem mnemonic_of_nop1 (h : i.list = .nop1) : i.mnemonic = .undefinedNop := by
  revert h; cases i <;> decide

theorem stp_of_list (h : i.list = .stp) : i = .stp := by
  revert h; cases i <;> decide

theorem mnemonic_of_storeList (h : storeList i.list = true) :
    i.mnemonic = .sta ∨ i.mnemonic = .stx ∨ i.mnemonic = .sty ∨ i.mnemonic = .stz := by
  revert h; cases i <;> decide

theorem rmwMnemonic_of_rmwList (h : rmwList i.list = true) : rmwMnemonic i.mnemonic = true := by
  revert h; cases i <;> decide

/-- A branch has a condition, and no deferred effect (spec R167, R290). -/
theorem branch_of_list (h : i.list = .rel ∨ i.list = .zpRel) (c : State) :
    (branchCondition i.mnemonic c).isSome = true ∧ effect i.mnemonic i.list c = c := by
  cases i
  case bpl | bmi | bvc | bvs | bcc | bcs | bne | beq | bra => exact ⟨rfl, rfl⟩
  case bbr0 | bbr1 | bbr2 | bbr3 | bbr4 | bbr5 | bbr6 | bbr7 | bbs0 | bbs1 | bbs2 | bbs3 | bbs4 | bbs5 | bbs6 | bbs7 =>
    exact ⟨rfl, rfl⟩
  all_goals exact absurd h (by decide)

/-- A branch's condition reads P and BD alone. -/
theorem branchCondition_congr {s t : State} (hp : s.regs.p = t.regs.p) (hbd : s.latch.bd = t.latch.bd) (m : Mnemonic) :
    branchCondition m s = branchCondition m t := by
  cases m <;> simp only [branchCondition, hp, hbd]

theorem branchExtra_le (taken : Bool) (next target : Word) : branchExtra taken next target ≤ 2 := by
  unfold branchExtra
  split
  · split <;> decide
  · decide

theorem completes_of_branch (h : s.Ready) (hl : i.list = .rel ∨ i.list = .zpRel) {r : Regs} {l : Latches} {ds : List Device} {v : Byte}
    (hrun : (s.present i).view.run (.instr i) = ⟨r, l, doneEng i .data .read 0 (s.eng.cycles + (baseCycles i - 1)), ds, v⟩)
    (hp : r.p = s.regs.p) : s.Completes i := by
  have hplain : plainList i.list = true := by rcases hl with hl | hl <;> rw [hl] <;> rfl
  have hwai : i ≠ .wai := mnemonic_eq_wai (by rcases hl with hl | hl <;> rw [hl] <;> decide)
  obtain ⟨taken, htaken⟩ := Option.isSome_iff_exists.1 (branch_of_list hl ((s.setP r.p).setBd l.bd)).1
  obtain ⟨t, ht, hran, -, -⟩ := exec_branch h hplain hrun
    (fun _ hp' hbd => (branchCondition_congr (t := (s.setP r.p).setBd l.bd) hp' hbd i.mnemonic).trans htaken)
    (fun c => (branch_of_list hl c).2) (hp ▸ h.masked) (fun hi => absurd hi hwai)
  exact ⟨t, _, _, ht, hran, Nat.le_add_right .., Nat.add_le_add_left (branchExtra_le ..) _⟩

/-- The lists that `completes_of_ordinary` is for: all but those of one cycle, of STP, of WAI and of the branches. -/
def ordinaryList (l : ListName) : Bool := plainList l && l != .rel && l != .zpRel && l != .wai

theorem completes_of_ordinary (h : s.Ready) (hl : ordinaryList i.list = true)
    {r : Regs} {l : Latches} {tag : DataTag} {rw : Direction} {e0 : Nat} {ds : List Device} {v : Byte}
    (hrun : (s.present i).view.run (.instr i) = ⟨r, l, doneEng i tag rw e0 (s.eng.cycles + (baseCycles i - 1)), ds, v⟩)
    (he : e0 ≤ 1) (hrw : e0 = 0 ∨ rw = .read) (hq : s.bp.irqb.level = true ∨ flag bitI r.p = true ∨
      (∀ c, effect i.mnemonic i.list c = c) ∧ (capRegs tag rw v l r).p = r.p) : s.Completes i := by
  simp only [ordinaryList, Bool.and_eq_true, bne_iff_ne] at hl
  obtain ⟨⟨⟨hplain, hrel⟩, hzp⟩, hwai⟩ := hl
  exact completes_of_run h hplain (noBranch_of_list hrel hzp) hrun he hrw hq (fun hi => absurd hi (mnemonic_eq_wai hwai))

/-- A list that schedules no extra cycle and leaves P as it was: what masked an IRQ masks it still. -/
theorem completes_of_masked (h : s.Ready) (hl : ordinaryList i.list = true)
    {r : Regs} {l : Latches} {tag : DataTag} {rw : Direction} {ds : List Device} {v : Byte}
    (hrun : (s.present i).view.run (.instr i) = ⟨r, l, doneEng i tag rw 0 (s.eng.cycles + (baseCycles i - 1)), ds, v⟩)
    (hp : r.p = s.regs.p) : s.Completes i :=
  completes_of_ordinary h hl hrun (Nat.zero_le _) (.inl rfl) (h.masked.imp_right fun hm => .inl (hp ▸ hm))

/-- The instructions of each list, by what the list leaves after its last cycle. -/
theorem State.Ready.completes (h : s.Ready) (hstp : i ≠ .stp)
    (hwai : i = .wai → s.waiSemantics = .nop ∨ s.waiSemantics = .waitForIrq ∧ s.bp.irqb.level = false) : s.Completes i := by
  cases hl : i.list
  case imm | zpR | zpxR | zpyR | absR | absxR | absyR | izxR | izyR | izpR =>
    obtain ⟨_, _, -, hrun⟩ := run_read h (by rw [hl]; rfl)
    exact completes_of_ordinary h (by rw [hl]; rfl) hrun (Bool.toNat_le _) (.inr rfl) (h.masked.imp_right .inl)
  case zpW | zpxW | zpyW | absW | absxW | absyW | izxW | izyW | izpW =>
    have hstore : storeList i.list = true := by rw [hl]; rfl
    obtain ⟨_, _, -, hrun⟩ := run_store h hstore (mnemonic_of_storeList hstore)
    exact completes_of_masked h (by rw [hl]; rfl) hrun rfl
  case zpRmw | zpxRmw | absRmw | absxRmw =>
    have hrmw : rmwList i.list = true := by rw [hl]; rfl
    obtain ⟨_, _, -, hrun⟩ := run_rmw h hrmw (rmwMnemonic_of_rmwList hrmw)
    exact completes_of_ordinary h (by rw [hl]; rfl) hrun (Nat.zero_le _) (.inl rfl)
      (h.masked.imp_right fun hm => .inl ((modifiedStatus_i ..).trans hm))
  case imp | nopImm | nopZp | nopZpx | nopAbs | nop5c =>
    obtain ⟨_, _, hrun⟩ := run_idle h (by rw [hl]; rfl)
    exact completes_of_masked h (by rw [hl]; rfl) hrun rfl
  case rel =>
    obtain ⟨_, hrun⟩ := run_rel h hl
    exact completes_of_branch h (.inl hl) hrun rfl
  case zpRel =>
    obtain ⟨_, -, hrun⟩ := run_zpRel h hl (mnemonic_of_zpRel hl)
    exact completes_of_branch h (.inr hl) hrun rfl
  case jmpAbs =>
    obtain ⟨_, _, _, rfl, -, hrun⟩ := run_jmpAbs h hl
    exact completes_of_masked h (by rw [hl]; rfl) hrun rfl
  case jmpInd =>
    obtain ⟨_, _, _, rfl, -, hrun⟩ := run_jmpInd h hl
    exact completes_of_masked h (by rw [hl]; rfl) hrun rfl
  case jmpIax =>
    obtain ⟨_, _, _, rfl, -, hrun⟩ := run_jmpIax h hl
    exact completes_of_masked h (by rw [hl]; rfl) hrun rfl
  case jsr =>
    obtain ⟨_, _, _, rfl, -, hrun⟩ := run_jsr h hl
    exact completes_of_masked h (by rw [hl]; rfl) hrun rfl
  case rts =>
    obtain ⟨_, _, hrun⟩ := run_rts h hl
    exact completes_of_masked h (by rw [hl]; rfl) hrun rfl
  case rti =>
    obtain ⟨_, _, _, -, -, hrun⟩ := run_rti h hl
    exact completes_of_ordinary h (by rw [hl]; rfl) hrun (Nat.zero_le _) (.inl rfl)
      (.inr (.inr ⟨fun _ => by rw [mnemonic_of_rti hl]; rfl, rfl⟩))
  case brk =>
    obtain ⟨_, _, _, rfl, -, hrun⟩ := run_brk h hl
    exact completes_of_ordinary h (by rw [hl]; rfl) hrun (Nat.zero_le _) (.inl rfl) (.inr (.inl (enteredStatus_i _)))
  case push =>
    obtain ⟨_, hrun⟩ := run_push h hl (mnemonic_of_push hl)
    exact completes_of_masked h (by rw [hl]; rfl) hrun rfl
  case php =>
    obtain ⟨_, hrun⟩ := run_php h hl
    exact completes_of_masked h (by rw [hl]; rfl) hrun rfl
  case pull =>
    obtain ⟨_, hrun⟩ := run_pull h hl
    exact completes_of_masked h (by rw [hl]; rfl) hrun rfl
  case plp =>
    obtain ⟨_, hrun⟩ := run_plp h hl
    exact completes_of_masked h (by rw [hl]; rfl) hrun rfl
  case wai =>
    obtain rfl := wai_of_list hl
    obtain ⟨_, _, hrun⟩ := run_wai h hl rfl
    exact completes_of_run h rfl (fun _ => rfl) hrun (Nat.zero_le _) (.inl rfl) (h.masked.imp_right .inl) hwai
  case nop1 =>
    obtain ⟨t, ht, hran, -, -⟩ := exec_oneCycle h hl (fun _ => by rw [mnemonic_of_nop1 hl]; rfl)
    have hbase : baseCycles i = 1 := by rw [baseCycles, hl]; rfl
    exact ⟨t, _, _, ht, hran, by omega, by omega⟩
  case stp => exact absurd (stp_of_list hl) hstp
  case intr => exact absurd hl (list_ne_intr i)

/-- Settles O57: each list runs to its end, with one extra cycle at most for a page crossed and one for a decimal sum, or two for a
branch. -/
theorem everyInstructionCompletes : Obligations.EveryInstructionCompletes := fun _ _ h hstp hwai => h.completes hstp hwai

end Sys2Proof.Machine
end

section
/-!
PROOFS of the statements about the engine's edges, about a stopped or reset CPU, and about an IRQ that is asserted while I is clear.
-/

namespace Sys2Proof.Machine

variable {s : State}

/-- Where no input is to come, a cycle is what its falling edge leaves, and then the rising edge (spec R73, R74). -/
theorem cycle_of_falls {u : State} (hin : s.script = []) (h : s.clockFalls = .next u) : s.cycle = .next u.clockRises := by
  rw [State.cycle, takeInput_of_noInput hin, h]

/-! ### Reset on an edge (spec R161, R164) -/

/-- An edge with RESB asserted is processed whether or not the CPU is stopped, and with no extra cycle pending it is driven. -/
theorem edgeKind_of_reset (hclock : s.bp.phi2.level = true) (hrdy : s.bp.rdy.level = true) (hresb : s.bp.resb.level = false)
    (hx : s.eng.extra = 0) : s.edgeKind = .driven := by
  simp [State.edgeKind, hclock, hrdy, hresb, hx]

theorem sample_of_reset (h : s.bp.resb.level = false) :
    s.sample = (((s.setMode .reset).setIdx 0).setCycles 0).setPending none := if_pos h

/-- A capture writes P and PC at most among the registers. -/
theorem capRegs_frame (t : DataTag) (d : Direction) (v : Byte) (l : Latches) (r : Regs) :
    ∃ pc p, capRegs t d v l r = { r with pc := pc, p := p } := by
  unfold capRegs
  split <;> exact ⟨_, _, rfl⟩

/-- With no instruction pending a capture evaluates no branch: the engine is as it was (spec R166, R167). -/
theorem capture_of_no_pending (h : s.eng.pending = none) :
    s.capture.eng = s.eng ∧ ∃ pc p, s.capture.regs = { s.regs with pc := pc, p := p } := by
  obtain ⟨-, k, he, hk⟩ := capture_frame s
  obtain ⟨-, pc, hr⟩ := capture_parts s
  obtain ⟨pc', p, hcap⟩ := capRegs_frame s.eng.prevTag s.eng.prevRw s.dataBus s.latch s.regs
  have hk0 : k = s.eng.extra := by
    rcases hk with hk | ⟨-, i, hi, -⟩
    · exact hk
    · exact absurd (h.symm.trans hi) nofun
  exact ⟨by rw [he, hk0], pc, p, by rw [hr, hcap]⟩

/-- The opcode fetch at PC (spec R108, R171). -/
theorem drive_fetch (s : State) : s.drive fetch =
    (((s.setAddr s.regs.pc).setPc (s.regs.pc + 1#16)).setLines true true true true).setPrev .opcode .read :=
  congrArg (State.setPrev · .opcode .read) (if_neg fun ⟨_, hdata, _⟩ => absurd hdata (by decide))

/-- At IDX 0 steps 6 and 7 fetch an opcode and go on to the selection edge (spec R108, R176). -/
theorem runCycle_of_boundary (h : s.eng.idx = 0) : s.runCycle = .next ((s.drive fetch).setIdx 1).count := by
  have hadv : (s.drive fetch).advance = (s.drive fetch).setIdx 1 := if_pos (by rw [drive_fetch]; exact h)
  unfold State.runCycle
  rw [h, show (cyclesOf s.eng.list)[0]? = some fetch from rfl, ← hadv]
  exact (if_neg (by simp [fetch])).trans (if_neg (by simp [fetch]))

/-- Steps 3 to 7 of a boundary edge at which no deferred effect is due: an opcode is fetched, and PC and P alone of the registers may
change (spec R160, R166, R171). -/
theorem edge_of_boundary (hidx : s.eng.idx = 0) (hp : s.eng.pending = none) : ∃ v, s.capture.select.deferred.runCycle = .next v ∧
    v.eng = { s.eng with idx := 1, prevTag := .opcode, prevRw := .read, cycles := s.eng.cycles + 1 } ∧
    ∃ pc p, v.regs = { s.regs with pc := pc, p := p } := by
  obtain ⟨he, pc, p, hr⟩ := capture_of_no_pending hp
  have hidx' : s.capture.eng.idx = 0 := by rw [he, hidx]
  have hsel : s.capture.select = s.capture := if_neg (by rw [hidx']; decide)
  have hdef : s.capture.deferred = s.capture := by simp only [State.deferred, he, hp]
  refine ⟨_, by rw [hsel, hdef, runCycle_of_boundary hidx', drive_fetch], ?_, s.capture.regs.pc + 1#16, p, ?_⟩
  · rw [← he]; rfl
  · show { s.capture.regs with pc := s.capture.regs.pc + 1#16 } = _
    rw [hr]

/-- Settles O18: reset puts the engine at a boundary with nothing pending, and the edge goes on to fetch an opcode. -/
theorem assertedResetAbandonsTheInstruction : Obligations.AssertedResetAbandonsTheInstruction := by
  intro s hin hclock hrdy hresb hx
  have hfalls := clockFalls_driven (edgeKind_of_reset hclock hrdy hresb hx)
  rw [sample_of_reset (s := (s.setPhi2 false).setStopped false) hresb] at hfalls
  obtain ⟨v, hv, heng, pc, p, hregs⟩ :=
    edge_of_boundary (s := ((((s.setPhi2 false).setStopped false).setMode .reset).setIdx 0).setCycles 0 |>.setPending none) rfl rfl
  rw [hv] at hfalls
  obtain ⟨hr, he, -⟩ := clockRises_parts v
  refine ⟨v.clockRises, cycle_of_falls hin hfalls, ?_⟩
  simp [State.fetched, hr, he, heng, hregs, hx]

/-! ### Edges that do not drive (spec R161, R163, R165) -/

/-- Settles O14: each of the two conditions ends the edge. -/
theorem ignoredEdgesChangeNothing : Obligations.IgnoredEdgesChangeNothing := by
  rintro s (hrdy | hstop)
  · exact if_pos hrdy
  · by_cases hrdy : s.bp.rdy.level = false
    · exact if_pos hrdy
    · exact (if_neg hrdy).trans (if_pos hstop)

/-- Settles O15: step 1 alone runs. -/
theorem extraEdgesOnlyCount : Obligations.ExtraEdgesOnlyCount := by
  intro s hrdy hrun hx
  unfold State.cpuEdge
  rw [if_neg (by rw [hrdy]; decide), if_neg (fun h => absurd (hrun.symm.trans h.1) (by decide)), setStopped_self hrun]
  exact if_pos hx

/-- Settles O17: the second condition of step 2 is the conjunction that the statement splits. -/
theorem irqIsLatchedOnlyUnmasked : Obligations.IrqIsLatchedOnlyUnmasked := by
  intro s hresb
  unfold State.sample
  rw [if_neg (by rw [hresb]; decide)]
  refine ⟨fun ⟨hI, hirq, hmode⟩ => if_pos ⟨hirq, hI, hmode⟩, fun h => if_neg ?_⟩
  rintro ⟨hirq, hI, hmode⟩
  rcases h with h | h | h
  · exact absurd (h.symm.trans hI) (by decide)
  · exact absurd (h.symm.trans hirq) (by decide)
  · exact h hmode

/-- Settles O50: the edge is ignored, so that the first cycle changes the clock and what the devices answer, and the run pauses after it. -/
theorem stoppedCpuStaysStopped : Obligations.StoppedCpuStaysStopped := by
  intro s hin hclock hstop hresb
  have hfalls := clockFalls_ignored (s := s) (if_pos (.inr (.inr ⟨hstop, hresb⟩)))
  rw [if_pos hclock] at hfalls
  obtain ⟨hr, hl, he, -⟩ := risingEdgesLeaveTheCpuAlone (s.setPhi2 false)
  refine ⟨_, ?_, hr, hl, he⟩
  rw [step_eq_resume]
  exact runCycles_pause (cycle_of_falls hin hfalls) (by rw [pauses, he]; simp [hstop]) _

/-! ### Steps (spec R168) -/

/-- Settles O19: the decoder reads back the opcode on DATA. -/
theorem stepRunsTheFetchedInstruction : Obligations.StepRunsTheFetchedInstruction := by
  intro i s hf hd
  rw [step, if_pos hf, hd, decodeOpcode_opcode]

/-! ### An IRQ with I clear (spec R165, R181, R340) -/

theorem not_masked (hirq : s.bp.irqb.level = false) (hI : flag bitI s.regs.p = false) : ¬s.Masked := by
  simp [State.Masked, hirq, hI]

/-- Settles O51: the selection edge latches the IRQ, and interrupt entry goes through its vector. -/
theorem irqTakesTheInstructionsPlace : Obligations.IrqTakesTheInstructionsPlace := by
  intro i s h hmode hirq hI
  obtain ⟨t, ht, he, -⟩ := exec_irq i h hmode (not_masked hirq hI)
  exact ⟨t, ht, he⟩

/-- CLI clears I, in two cycles, and changes nothing else in the registers (spec R340). -/
theorem exec_cli (h : s.Ready) : ∃ t, exec .cli s = .next t ∧ s.Ran t { s.regs with p := setFlag bitI false s.regs.p } 2 := by
  obtain ⟨c, t, hc, hx, -, ht, hran, -⟩ := exec_idle h (i := .cli) rfl (fun _ => rfl)
  have hpc : s.nextPc .cli = s.regs.pc := BitVec.add_zero _
  have hregs : (effect Instr.cli.mnemonic Instr.cli.list c).regs = { s.regs with p := setFlag bitI false s.regs.p } := by
    show (effectCli c).regs = _
    simp [effectCli, State.mapP, State.setP, hc, hpc]
  have hextra : (effect Instr.cli.mnemonic Instr.cli.list c).eng.extra = 0 := hx
  rw [hregs, hextra] at hran
  exact ⟨t, ht, hran⟩

/-- Settles O53: CLI runs because I masks the IRQ, and leaves it asserted with I clear. -/
theorem cliAdmitsAnAssertedIrqAtOnce : Obligations.CliAdmitsAnAssertedIrqAtOnce := by
  intro s h hmode hirq hI
  obtain ⟨t, ht, hran⟩ := exec_cli ⟨h, hmode, .inr hI⟩
  have hn : ¬t.Masked := by
    refine not_masked (hran.irqb.trans hirq) ?_
    rw [hran.regs]
    exact flag_setFlag_self bitI (by decide) false s.regs.p
  obtain ⟨u, hu, he, -⟩ := hran.enters hn
  exact ⟨t, u, ht, hran.regs, hu, he⟩

end Sys2Proof.Machine
end

section
/-!
PROOFS of the statements about loads, stores and register transfers. Each kind of instruction has one lemma: where the deferred effect is a
function of the registers, and of the operand for one that reads memory, it says what the whole instruction leaves; a statement then names
that function for each mnemonic.
-/

namespace Sys2Proof.Machine

variable {s : State} {i : Instr}

/-! ### What a deferred effect makes of the registers -/

/-- The registers with `v` in A, and N and Z from it. -/
def Regs.putA (r : Regs) (v : Byte) : Regs := { r with a := v, p := setNZ v r.p }
/-- The registers with `v` in X, and N and Z from it. -/
def Regs.putX (r : Regs) (v : Byte) : Regs := { r with x := v, p := setNZ v r.p }
/-- The registers with `v` in Y, and N and Z from it. -/
def Regs.putY (r : Regs) (v : Byte) : Regs := { r with y := v, p := setNZ v r.p }

@[simp] theorem State.putA_regs (st : State) (v : Byte) : (st.putA v).regs = st.regs.putA v := rfl
@[simp] theorem State.putX_regs (st : State) (v : Byte) : (st.putX v).regs = st.regs.putX v := rfl
@[simp] theorem State.putY_regs (st : State) (v : Byte) : (st.putY v).regs = st.regs.putY v := rfl

/-- The deferred effect of mnemonic `m` on list `l` makes `f` of D and the registers, and schedules no extra cycle. -/
def ActsBy (m : Mnemonic) (l : ListName) (f : Byte → Regs → Regs) : Prop :=
  ∀ c : State, (effect m l c).regs = f c.latch.d c.regs ∧ (effect m l c).eng.extra = c.eng.extra

/-! ### Instructions that read an operand (spec R172, R200 to R202) -/

/-- The mnemonics whose operand is a byte of memory that they do not write (spec R200 to R202, R231 to R241). -/
def readMnemonic (m : Mnemonic) : Bool :=
  match m with
  | .lda | .ldx | .ldy | .ora | .and | .eor | .adc | .sbc | .cmp | .cpx | .cpy | .bit => true
  | _ => false

theorem readList_of_readMnemonic (h : readMnemonic i.mnemonic = true) : readList i.list = true := by
  revert h; cases i <;> decide

theorem noBranch_of_readMnemonic (h : readMnemonic i.mnemonic = true) : NoBranch (.instr i) := by
  have hl := readList_of_readMnemonic h
  refine noBranch_of_list ?_ ?_ <;> intro hb <;> rw [hb] at hl <;> exact absurd hl (by decide)

/-- An instruction that reads an operand and acts on the registers alone: one extra cycle where the index carries into the high byte. -/
theorem exec_read_acts (h : s.Ready) {m : Mnemonic} (hm : i.mnemonic = m) (hread : readMnemonic m = true) {f : Byte → Regs → Regs}
    (hf : ActsBy m i.list f) : ∃ a t, s.effAddr i.list = some a ∧ exec i s = .next t ∧ s.Kept t ∧
      s.Ran t (f (s.peek a) { s.regs with pc := s.nextPc i }) (baseCycles i + (s.pageCrossed i.list).toNat) := by
  subst hm
  obtain ⟨a, c, t, ha, hregs, hd, hextra, -, ht, hran, hkept, -⟩ :=
    exec_read h (readList_of_readMnemonic hread) (noBranch_of_readMnemonic hread)
  obtain ⟨hfregs, hfextra⟩ := hf c
  rw [hfregs, hfextra, hregs, hd, hextra] at hran
  exact ⟨a, t, ha, ht, hkept, hran⟩

/-- Settles O21: each load puts the operand in its register, as its deferred effect. -/
theorem loadsSetTheirRegister : Obligations.LoadsSetTheirRegister := by
  refine ⟨by unfold Encodings; decide, fun i s h => ⟨fun hm => ?_, fun hm => ?_, fun hm => ?_⟩⟩
  · exact exec_read_acts h hm rfl (f := fun v r => r.putA v) fun c => ⟨c.putA_regs _, rfl⟩
  · exact exec_read_acts h hm rfl (f := fun v r => r.putX v) fun c => ⟨c.putX_regs _, rfl⟩
  · exact exec_read_acts h hm rfl (f := fun v r => r.putY v) fun c => ⟨c.putY_regs _, rfl⟩

/-! ### Stores (spec R203 to R206) -/

theorem storeList_of_mnemonic (h : i.mnemonic = .sta ∨ i.mnemonic = .stx ∨ i.mnemonic = .sty ∨ i.mnemonic = .stz) :
    storeList i.list = true := by
  revert h; cases i <;> decide

/-- A store leaves the byte of its mnemonic at the effective address, and only PC changes in the registers. -/
theorem exec_store_byte (h : s.Ready) {m : Mnemonic} (hm : i.mnemonic = m) (hs : m = .sta ∨ m = .stx ∨ m = .sty ∨ m = .stz) :
    ∃ a t, s.effAddr i.list = some a ∧ exec i s = .next t ∧ s.Stored t a (storedByte m s.regs) ∧
      s.Ran t { s.regs with pc := s.nextPc i } (baseCycles i) := by
  subst hm
  obtain ⟨a, t, ha, ht, hran, hstored⟩ := exec_store h (storeList_of_mnemonic hs) hs
  exact ⟨a, t, ha, ht, hstored, hran⟩

/-- Settles O22: each store runs on a list that ends with the write of its own byte, and has no deferred effect. -/
theorem storesStoreTheirRegister : Obligations.StoresStoreTheirRegister := by
  refine ⟨by unfold Encodings; decide, fun i s h => ⟨fun hm => ?_, fun hm => ?_, fun hm => ?_, fun hm => ?_⟩⟩
  · exact exec_store_byte h hm (.inl rfl)
  · exact exec_store_byte h hm (.inr (.inl rfl))
  · exact exec_store_byte h hm (.inr (.inr (.inl rfl)))
  · exact exec_store_byte h hm (.inr (.inr (.inr rfl)))

/-! ### Instructions with no operand (spec R110, R207 to R212) -/

theorem nextPc_of_imp (hl : i.list = .imp) : s.nextPc i = s.regs.pc := by
  rw [State.nextPc, Instr.operandCount, hl]
  exact BitVec.add_zero _

/-- An instruction with no operand that acts on the registers alone takes two cycles and leaves PC at the next opcode. -/
theorem exec_imp_acts (h : s.Ready) (hl : i.list = .imp) {f : Regs → Regs} (hf : ActsBy i.mnemonic i.list fun _ r => f r) :
    ∃ t, exec i s = .next t ∧ s.Kept t ∧ s.Ran t (f s.regs) 2 := by
  obtain ⟨c, t, hregs, hextra, -, ht, hran, hkept⟩ :=
    exec_idle h (by rw [hl]; rfl) (noBranch_of_list (by rw [hl]; decide) (by rw [hl]; decide))
  have hbase : baseCycles i = 2 := by rw [baseCycles, hl]; rfl
  obtain ⟨hfregs, hfextra⟩ := hf c
  rw [hfregs, hfextra, hregs, hextra, nextPc_of_imp hl, hbase] at hran
  exact ⟨t, ht, hkept, hran⟩

/-- Settles O23: the deferred effect of each transfer is the copy. -/
theorem transfersCopyTheirRegister : Obligations.TransfersCopyTheirRegister := by
  refine ⟨by unfold Encodings; decide, fun s h => ⟨?tax, ?tay, ?txa, ?tya, ?tsx, ?txs⟩⟩
  case tax => exact exec_imp_acts h rfl (f := fun r => r.putX r.a) fun c => ⟨c.putX_regs _, rfl⟩
  case tay => exact exec_imp_acts h rfl (f := fun r => r.putY r.a) fun c => ⟨c.putY_regs _, rfl⟩
  case txa => exact exec_imp_acts h rfl (f := fun r => r.putA r.x) fun c => ⟨c.putA_regs _, rfl⟩
  case tya => exact exec_imp_acts h rfl (f := fun r => r.putA r.y) fun c => ⟨c.putA_regs _, rfl⟩
  case tsx => exact exec_imp_acts h rfl (f := fun r => r.putX r.s) fun c => ⟨c.putX_regs _, rfl⟩
  case txs => exact exec_imp_acts h rfl (f := fun r => { r with s := r.x }) fun _ => ⟨rfl, rfl⟩

end Sys2Proof.Machine
end

section
/-!
PROOFS of the statements about arithmetic, logic, comparison and BIT. An instruction whose deferred effect is a function of the operand and
the registers goes by `exec_read_acts`. ADC and SBC are one addition with D clear (`effect_binary`) and one decimal operation with D set
(`effect_decimal`): what they leave is said once for the two, and a statement then names the operation of each.
-/

namespace Sys2Proof.Machine

variable {s : State} {i : Instr}

/-! ### Logic, comparison and BIT (spec R231 to R233, R238 to R241) -/

/-- Settles O24: each deferred effect puts the combined byte in A. -/
theorem logicCombinesAWithTheOperand : Obligations.LogicCombinesAWithTheOperand := by
  refine ⟨by unfold Encodings; decide, fun i s h => ⟨fun hm => ?_, fun hm => ?_, fun hm => ?_⟩⟩
  · exact exec_read_acts h hm rfl (f := fun v r => r.putA (r.a ||| v)) fun c => ⟨c.putA_regs _, rfl⟩
  · exact exec_read_acts h hm rfl (f := fun v r => r.putA (r.a &&& v)) fun c => ⟨c.putA_regs _, rfl⟩
  · exact exec_read_acts h hm rfl (f := fun v r => r.putA (r.a ^^^ v)) fun c => ⟨c.putA_regs _, rfl⟩

/-- Settles O29: each deferred effect changes P alone, by the comparison of its own register. -/
theorem comparesSetFlagsFromSubtraction : Obligations.ComparesSetFlagsFromSubtraction := by
  refine ⟨by unfold Encodings; decide, fun i s h r hr => ?_⟩
  rcases hr with ⟨hm, rfl⟩ | ⟨hm, rfl⟩ | ⟨hm, rfl⟩
  · exact exec_read_acts h hm rfl (f := fun v r => { r with p := compared r.a v r.p }) fun _ => ⟨rfl, rfl⟩
  · exact exec_read_acts h hm rfl (f := fun v r => { r with p := compared r.x v r.p }) fun _ => ⟨rfl, rfl⟩
  · exact exec_read_acts h hm rfl (f := fun v r => { r with p := compared r.y v r.p }) fun _ => ⟨rfl, rfl⟩

theorem bitStatus_z (imm : Bool) (a m p : Byte) : flag bitZ (bitStatus imm a m p) = (a &&& m == 0#8) := by
  have hz := flag_setFlag_self bitZ (by decide) (a &&& m == 0#8) p
  cases imm
  case true => exact hz
  case false => exact (flag_setFlag_ne _ _ (by decide) _ _).trans ((flag_setFlag_ne _ _ (by decide) _ _).trans hz)

theorem bitStatus_n (imm : Bool) (a m p : Byte) :
    flag bitN (bitStatus imm a m p) = if imm then flag bitN p else m.getLsbD 7 := by
  cases imm
  case true => exact flag_setFlag_ne _ _ (by decide) _ _
  case false => exact (flag_setFlag_ne _ _ (by decide) _ _).trans (flag_setFlag_self _ (by decide) _ _)

theorem bitStatus_v (imm : Bool) (a m p : Byte) :
    flag bitV (bitStatus imm a m p) = if imm then flag bitV p else m.getLsbD 6 := by
  cases imm
  case true => exact flag_setFlag_ne _ _ (by decide) _ _
  case false => exact flag_setFlag_self _ (by decide) _ _

/-- Of the forms of BIT the immediate one alone runs on the IMM list (spec R241). -/
theorem bit_list_imm (hm : i.mnemonic = .bit) : (i.list == .imm) = decide (i = .bitImm) := by
  cases i
  case bitImm | bitZp | bitZpX | bitAbs | bitAbsX => rfl
  all_goals cases hm

/-- Settles O30: the deferred effect changes P alone, and only on the IMM list does it leave N and V. -/
theorem bitTestsTheOperand : Obligations.BitTestsTheOperand := by
  refine ⟨by unfold Encodings; decide, fun i s h hm => ?_⟩
  obtain ⟨a, t, ha, ht, hkept, hran⟩ := exec_read_acts h hm rfl
    (f := fun v r => { r with p := bitStatus (i.list == .imm) r.a v r.p }) fun _ => ⟨rfl, rfl⟩
  rw [bit_list_imm hm] at hran
  exact ⟨a, t, _, ha, ht, hkept, hran, bitStatus_z .., by simp [bitStatus_n], by simp [bitStatus_v],
    fun _ _ hz hn hv => bitStatus_flag hz hn hv ..⟩

/-! ### ADC and SBC with D clear (spec R234, R236) -/

/-- What ADC and SBC add to A with D clear: the operand, or its complement (spec R234, R236). -/
def addend (m : Mnemonic) (v : Byte) : Byte := if m = .adc then v else v ^^^ 0xFF#8

/-- The registers with a sum in A, and N, V, Z and C from it. -/
def Regs.putSum (r : Regs) (x : Sum) : Regs :=
  { r with a := x.value, p := setNZ x.value (setFlag bitV x.overflow (setFlag bitC x.carry r.p)) }

@[simp] theorem State.putSum_regs (c : State) (x : Sum) : (c.putSum x).regs = c.regs.putSum x := rfl
@[simp] theorem State.putSum_extra (c : State) (x : Sum) : (c.putSum x).eng.extra = c.eng.extra := rfl

theorem readMnemonic_of_arithmetic {m : Mnemonic} (hm : m = .adc ∨ m = .sbc) : readMnemonic m = true := by
  rcases hm with rfl | rfl <;> rfl

theorem effect_binary {m : Mnemonic} (hm : m = .adc ∨ m = .sbc) {c : State} (hd : flag bitD c.regs.p = false) (l : ListName) :
    effect m l c = c.putSum (addBinary c.regs.a (addend m c.latch.d) (flag bitC c.regs.p)) := by
  have hd' : ¬flag bitD c.regs.p = true := by rw [hd]; decide
  rcases hm with rfl | rfl
  exacts [if_neg hd', if_neg hd']

/-- Settles O25: the deferred effect of both is one binary addition. -/
theorem binaryAdcAndSbcAddWithCarry : Obligations.BinaryAdcAndSbcAddWithCarry := by
  refine ⟨by unfold Encodings; decide, fun i s h hd hm => ?_⟩
  have hread := readMnemonic_of_arithmetic hm
  obtain ⟨a, c, t, ha, hregs, hdata, hextra, -, ht, hran, hkept, -⟩ :=
    exec_read h (readList_of_readMnemonic hread) (noBranch_of_readMnemonic hread)
  rw [effect_binary hm (by rw [hregs]; exact hd), State.putSum_regs, State.putSum_extra, hextra, hregs, hdata] at hran
  exact ⟨a, t, ha, ht, hkept, hran⟩

/-! ### Signed overflow (spec R234, R236) -/

theorem and_signBit_ne_zero (v : Byte) : (v &&& 0x80#8 != 0#8) = v.msb := by
  rw [show (0x80#8 : Byte) = BitVec.twoPow 8 7 from rfl, BitVec.and_twoPow, BitVec.msb_eq_getLsbD_last]
  cases v.getLsbD 7 <;> rfl

/-- V is set where the operands agree in sign and the result does not (spec R234). -/
theorem addBinary_overflow_eq (a m : Byte) (c : Bool) :
    (addBinary a m c).overflow = (!(a.msb ^^ m.msb) && (a.msb ^^ (addBinary a m c).value.msb)) := by
  refine (and_signBit_ne_zero _).trans ?_
  rw [BitVec.msb_and, BitVec.msb_not, BitVec.msb_xor, BitVec.msb_xor]
  rfl

theorem addBinary_value_toNat (a m : Byte) (c : Bool) :
    (addBinary a m c).value.toNat = (a.toNat + m.toNat + c.toNat) % 2 ^ 8 := BitVec.toNat_ofNat ..

theorem addBinary_overflow_iff (a m : Byte) (c : Bool) : (addBinary a m c).overflow = true ↔
    a.toInt + m.toInt + c.toNat < -128 ∨ 127 < a.toInt + m.toInt + c.toNat := by
  have hc := c.toNat_le
  have ha := a.isLt
  have hm := m.isLt
  rw [addBinary_overflow_eq, BitVec.msb_eq_decide, BitVec.msb_eq_decide, BitVec.msb_eq_decide, addBinary_value_toNat,
    BitVec.toInt_eq_toNat_cond, BitVec.toInt_eq_toNat_cond]
  simp only [Bool.and_eq_true, Bool.not_eq_eq_eq_not, Bool.not_true, bne_eq_false_iff_eq, decide_eq_decide, bne_iff_ne, ne_eq]
  omega

theorem complement_toNat (m : Byte) : (m ^^^ 0xFF#8).toNat = 255 - m.toNat := by
  rw [show (0xFF#8 : Byte) = BitVec.allOnes 8 from rfl, BitVec.xor_allOnes, BitVec.toNat_not]

/-- The complement of a byte is one below its negation. -/
theorem complement_toInt (m : Byte) : (m ^^^ 0xFF#8).toInt = -m.toInt - 1 := by
  have hm := m.isLt
  rw [BitVec.toInt_eq_toNat_cond, BitVec.toInt_eq_toNat_cond, complement_toNat]
  split <;> split <;> omega

/-- Settles O26: a subtraction adds the complement, which is `-m - 1` as a signed number and `255 - m` as an unsigned one. -/
theorem overflowIsSignedOverflow : Obligations.OverflowIsSignedOverflow := by
  intro a m c
  refine ⟨addBinary_overflow_iff a m c, ?_, ?_⟩
  · have hsum : a.toInt - m.toInt - (1 - c.toNat) = a.toInt + (m ^^^ 0xFF#8).toInt + c.toNat := by rw [complement_toInt]; omega
    rw [hsum]
    exact addBinary_overflow_iff ..
  · show decide (_ > 255) = true ↔ _
    have hm := m.isLt
    rw [decide_eq_true_iff, complement_toNat]
    omega

/-! ### ADC and SBC with D set (spec R235, R237, R242) -/

/-- The operation of ADC and SBC on BCD operands (spec R235, R237). -/
def decimalOp (m : Mnemonic) : Byte → Byte → Bool → Byte × Bool := if m = .adc then addDecimal else subDecimal

theorem effect_decimal {m : Mnemonic} (hm : m = .adc ∨ m = .sbc) {c : State} (hd : flag bitD c.regs.p = true) (l : ListName) :
    effect m l c = c.decimal (decimalOp m) := by
  rcases hm with rfl | rfl
  exacts [if_pos hd, if_pos hd]

theorem decimal_of_bcd {c : State} (h : (isBcd c.regs.a && isBcd c.latch.d) = true) (op : Byte → Byte → Bool → Byte × Bool) :
    c.decimal op = (c.scheduleExtra 1).putDecimal (op c.regs.a c.latch.d (flag bitC c.regs.p)) := if_pos h

theorem putDecimal_carry (c : State) (x : Byte × Bool) : flag bitC (c.putDecimal x).regs.p = x.2 := by
  show flag bitC (setFlag bitV _ (setFlag bitN _ (setFlag bitZ _ (setFlag bitC x.2 c.regs.p)))) = x.2
  rw [flag_setFlag_ne _ _ (by decide), flag_setFlag_ne _ _ (by decide), flag_setFlag_ne _ _ (by decide),
    flag_setFlag_self _ (by decide)]

theorem putDecimal_zero (c : State) (x : Byte × Bool) : flag bitZ (c.putDecimal x).regs.p = (x.1 == 0#8) := by
  show flag bitZ (setFlag bitV _ (setFlag bitN _ (setFlag bitZ (x.1 == 0#8) _))) = _
  rw [flag_setFlag_ne _ _ (by decide), flag_setFlag_ne _ _ (by decide), flag_setFlag_self _ (by decide)]

/-- A decimal operation, whatever its operands, schedules one extra cycle, and writes A and P alone among the registers (spec R242). -/
theorem decimal_frame (c : State) (op : Byte → Byte → Bool → Byte × Bool) : (c.decimal op).eng.extra = c.eng.extra + 1 ∧
    (c.decimal op).regs = { c.regs with a := (c.decimal op).regs.a, p := (c.decimal op).regs.p } := by
  unfold State.decimal
  dsimp only
  split
  exacts [⟨rfl, rfl⟩, ⟨rfl, rfl⟩]

/-- ADC or SBC with D set: A and P are what the decimal operation makes of a state `c` that has the operand in D. -/
theorem exec_decimal (h : s.Ready) (hd : flag bitD s.regs.p = true) (hm : i.mnemonic = .adc ∨ i.mnemonic = .sbc) {a : Word}
    (ha : s.effAddr i.list = some a) : ∃ c t : State, c.regs = { s.regs with pc := s.nextPc i } ∧ c.latch.d = s.peek a ∧
      exec i s = .next t ∧ s.Kept t ∧
      s.Ran t { s.regs with
          pc := s.nextPc i, a := (c.decimal (decimalOp i.mnemonic)).regs.a, p := (c.decimal (decimalOp i.mnemonic)).regs.p }
        (baseCycles i + (s.pageCrossed i.list).toNat + 1) ∧
      ∀ k, k < 8 → k ≠ bitC → k ≠ bitZ → k ≠ bitN → k ≠ bitV →
        flag k (c.decimal (decimalOp i.mnemonic)).regs.p = flag k s.regs.p := by
  have hread := readMnemonic_of_arithmetic hm
  obtain ⟨a', c, t, ha', hregs, hdata, hextra, -, ht, hran, hkept, -⟩ :=
    exec_read h (readList_of_readMnemonic hread) (noBranch_of_readMnemonic hread)
  obtain rfl : a' = a := Option.some.inj (ha'.symm.trans ha)
  obtain ⟨hx, hframe⟩ := decimal_frame c (decimalOp i.mnemonic)
  rw [effect_decimal hm (by rw [hregs]; exact hd), hx, hextra, hframe, hregs] at hran
  refine ⟨c, t, hregs, hdata, ht, hkept, hran, fun k _ hc hz hn hv => ?_⟩
  rw [decimal_flag hz hn hc hv, hregs]

/-- The two decimal digits of a number modulo 100, as a byte (spec R235, R237). -/
def decimalDigits (n : Int) : Byte := BitVec.ofInt 8 (n % 100 / 10 * 16 + n % 100 % 10)

theorem toBcd_eq_decimalDigits {k : Nat} {n : Int} (h : (k : Int) = n % 100) : toBcd k = decimalDigits n := by
  rw [toBcd, decimalDigits, ← h, ← BitVec.ofInt_natCast]
  push_cast
  rfl

theorem addDecimal_eq (a m : Byte) (c : Bool) : addDecimal a m c =
    (decimalDigits ((bcdValue a : Int) + bcdValue m + c.toNat), decide ((bcdValue a : Int) + bcdValue m + c.toNat ≥ 100)) := by
  refine Prod.ext (toBcd_eq_decimalDigits (by push_cast; rfl)) (decide_eq_decide.2 ?_)
  omega

theorem subDecimal_eq (a m : Byte) (c : Bool) : subDecimal a m c =
    (decimalDigits ((bcdValue a : Int) - bcdValue m - (1 - c.toNat)), decide ((bcdValue a : Int) - bcdValue m - (1 - c.toNat) ≥ 0)) :=
  Prod.ext (toBcd_eq_decimalDigits (Int.toNat_of_nonneg (Int.emod_nonneg _ (by decide)))) rfl

/-- ADC or SBC with D set, on BCD operands: A, C and Z come from the decimal operation. -/
theorem exec_bcd (h : s.Ready) (hd : flag bitD s.regs.p = true) (hm : i.mnemonic = .adc ∨ i.mnemonic = .sbc) {a : Word}
    (ha : s.effAddr i.list = some a) (hbcd : (isBcd s.regs.a && isBcd (s.peek a)) = true)
    {op : Byte → Byte → Bool → Byte × Bool} (hop : decimalOp i.mnemonic = op) {v : Byte} {carry : Bool}
    (hres : op s.regs.a (s.peek a) (flag bitC s.regs.p) = (v, carry)) :
    ∃ t p, exec i s = .next t ∧ s.Kept t ∧
      s.Ran t { s.regs with pc := s.nextPc i, a := v, p := p } (baseCycles i + (s.pageCrossed i.list).toNat + 1) ∧
      flag bitC p = carry ∧ flag bitZ p = (v == 0#8) ∧
      ∀ k, k < 8 → k ≠ bitC → k ≠ bitZ → k ≠ bitN → k ≠ bitV → flag k p = flag k s.regs.p := by
  obtain ⟨c, t, hregs, hdata, ht, hkept, hran, hflags⟩ := exec_decimal h hd hm ha
  have hc : c.decimal (decimalOp i.mnemonic) = (c.scheduleExtra 1).putDecimal (v, carry) := by
    rw [decimal_of_bcd (by rw [hregs, hdata]; exact hbcd), hop, hregs, hdata, hres]
  rw [hc] at hran hflags
  exact ⟨t, _, ht, hkept, hran, putDecimal_carry .., putDecimal_zero .., hflags⟩

/-- Settles O27: the decimal operation of each gives the digits and the carry of its own number. -/
theorem decimalAdcAndSbcAddDigits : Obligations.DecimalAdcAndSbcAddDigits := by
  intro i s a h hd hm ha hbcdA hbcdM
  have hbcd : (isBcd s.regs.a && isBcd (s.peek a)) = true := by rw [hbcdA, hbcdM]; rfl
  rcases hm with hadc | hsbc
  · have hran := exec_bcd h hd (.inl hadc) ha hbcd (by rw [hadc]; rfl) (addDecimal_eq ..)
    simp only [hadc, if_true]
    exact hran
  · have hran := exec_bcd h hd (.inr hsbc) ha hbcd (by rw [hsbc]; rfl) (subDecimal_eq ..)
    simp only [hsbc, reduceCtorEq, if_false]
    exact hran

/-- Settles O28: whatever the decimal operation draws, it goes to A and to the four flags alone. -/
theorem decimalOnOtherOperandsLeavesAFree : Obligations.DecimalOnOtherOperandsLeavesAFree := by
  intro i s a h hd hm ha _
  obtain ⟨_, t, -, -, ht, hkept, hran, hflags⟩ := exec_decimal h hd hm ha
  exact ⟨t, _, _, ht, hkept, hran, hflags⟩

end Sys2Proof.Machine
end

section
/-!
PROOFS of the statements about shifts, increments and bit manipulation. On a register each is a deferred effect that is a function of the
registers (`exec_imp_acts`); in memory each is one read-modify-write, and `modified` and `modifiedStatus` say what becomes of the byte and
of P (`exec_rmw_byte`).
-/

namespace Sys2Proof.Machine

variable {s : State} {i : Instr}

/-! ### On a register (spec R260 to R270) -/

/-- The registers with a shifted byte in A, the bit shifted out in C, and N and Z from the byte. -/
def Regs.shiftA (r : Regs) (x : Byte × Bool) : Regs := { r with a := x.1, p := shifted x r.p }

theorem State.shiftA_regs (st : State) (x : Byte × Bool) : (st.shiftA x).regs = st.regs.shiftA x := rfl

/-- Settles O31: the deferred effect of each puts the shifted byte in A. -/
theorem shiftsOfAGoThroughCarry : Obligations.ShiftsOfAGoThroughCarry := by
  refine ⟨by unfold Encodings; decide, fun s h => ⟨?asl, ?lsr, ?rol, ?ror⟩⟩
  case asl => exact exec_imp_acts h rfl (f := fun r => r.shiftA (shiftLeft r.a)) fun c => ⟨c.shiftA_regs _, rfl⟩
  case lsr => exact exec_imp_acts h rfl (f := fun r => r.shiftA (shiftRight r.a)) fun c => ⟨c.shiftA_regs _, rfl⟩
  case rol => exact exec_imp_acts h rfl (f := fun r => r.shiftA (rotateLeft r.a (flag bitC r.p))) fun c => ⟨c.shiftA_regs _, rfl⟩
  case ror => exact exec_imp_acts h rfl (f := fun r => r.shiftA (rotateRight r.a (flag bitC r.p))) fun c => ⟨c.shiftA_regs _, rfl⟩

/-- Settles O32: the deferred effect of each puts the next byte, or the one before, in its register. -/
theorem registerIncrementsWrap : Obligations.RegisterIncrementsWrap := by
  refine ⟨by unfold Encodings; decide, fun s h => ⟨?incA, ?decA, ?inx, ?iny, ?dex, ?dey⟩⟩
  case incA => exact exec_imp_acts h rfl (f := fun r => r.putA (r.a + 1#8)) fun c => ⟨c.putA_regs _, rfl⟩
  case decA => exact exec_imp_acts h rfl (f := fun r => r.putA (r.a - 1#8)) fun c => ⟨c.putA_regs _, rfl⟩
  case inx => exact exec_imp_acts h rfl (f := fun r => r.putX (r.x + 1#8)) fun c => ⟨c.putX_regs _, rfl⟩
  case iny => exact exec_imp_acts h rfl (f := fun r => r.putY (r.y + 1#8)) fun c => ⟨c.putY_regs _, rfl⟩
  case dex => exact exec_imp_acts h rfl (f := fun r => r.putX (r.x - 1#8)) fun c => ⟨c.putX_regs _, rfl⟩
  case dey => exact exec_imp_acts h rfl (f := fun r => r.putY (r.y - 1#8)) fun c => ⟨c.putY_regs _, rfl⟩

/-! ### In memory (spec R260 to R266, R271, R272) -/

/-- Off the IMP list, which is the register forms', these mnemonics run on a read-modify-write list. -/
theorem rmwList_of_rmwMnemonic (hm : rmwMnemonic i.mnemonic = true) (hl : i.list ≠ .imp) : rmwList i.list = true := by
  revert hm hl; cases i <;> decide

/-- A read-modify-write leaves the modified byte at the effective address, and only PC and P change in the registers. -/
theorem exec_rmw_byte (h : s.Ready) (hl : i.list ≠ .imp) {m : Mnemonic} (hm : i.mnemonic = m) (hrmw : rmwMnemonic m = true) :
    ∃ a t, s.effAddr i.list = some a ∧ exec i s = .next t ∧ s.Stored t a (modified m s.regs (s.peek a)) ∧
      s.Ran t { s.regs with pc := s.nextPc i, p := modifiedStatus m s.regs (s.peek a) } (baseCycles i) := by
  subst hm
  obtain ⟨a, t, ha, ht, hran, hstored⟩ := exec_rmw h (rmwList_of_rmwMnemonic hrmw hl) hrmw
  exact ⟨a, t, ha, ht, hstored, hran⟩

/-- Settles O33: the modified byte is the shifted one, and the status is that of the shift. -/
theorem shiftsOfMemoryStoreTheResult : Obligations.ShiftsOfMemoryStoreTheResult := by
  refine ⟨by unfold Encodings; decide, fun i s h hl result out hshift => ?_⟩
  rcases hshift with ⟨hm, rfl, rfl⟩ | ⟨hm, rfl, rfl⟩ | ⟨hm, rfl, rfl⟩ | ⟨hm, rfl, rfl⟩
  all_goals exact exec_rmw_byte h hl hm rfl

/-- Settles O34: the modified byte is the next one, or the one before. -/
theorem memoryIncrementsWrap : Obligations.MemoryIncrementsWrap :=
  ⟨by unfold Encodings; decide, fun _ _ h hl => ⟨fun hm => exec_rmw_byte h hl hm rfl, fun hm => exec_rmw_byte h hl hm rfl⟩⟩

/-- TSB and TRB have no register form. -/
theorem list_ne_imp_of_tsb_trb (h : i.mnemonic = .tsb ∨ i.mnemonic = .trb) : i.list ≠ .imp := by
  revert h; cases i <;> decide

/-- Settles O35: the status is that of the test of A with the old byte, for both. -/
theorem tsbAndTrbTestThenModify : Obligations.TsbAndTrbTestThenModify :=
  ⟨by unfold Encodings; decide, fun _ _ h =>
    ⟨fun hm => exec_rmw_byte h (list_ne_imp_of_tsb_trb (.inl hm)) hm rfl,
      fun hm => exec_rmw_byte h (list_ne_imp_of_tsb_trb (.inr hm)) hm rfl⟩⟩

/-! ### RMB and SMB (spec R273, R274) -/

/-- Bit `k` of a byte with bit `j` replaced. -/
theorem getLsbD_setFlag {j : Nat} (hj : j < 8) (k : Nat) (c : Bool) (v : Byte) :
    (setFlag j c v).getLsbD k = if k = j then c else v.getLsbD k := by
  split
  case isTrue hk => subst hk; exact flag_setFlag_self k hj c v
  case isFalse hk => exact flag_setFlag_ne k j hk c v

theorem getLsbD_clearBit (b : Fin 8) (k : Nat) (v : Byte) : (clearBit b v).getLsbD k = if k = b.val then false else v.getLsbD k :=
  getLsbD_setFlag b.isLt k false v

theorem getLsbD_setBit (b : Fin 8) (k : Nat) (v : Byte) : (setBit b v).getLsbD k = if k = b.val then true else v.getLsbD k :=
  getLsbD_setFlag b.isLt k true v

theorem list_of_rmb_smb {b : Fin 8} (h : i.mnemonic = .rmb b ∨ i.mnemonic = .smb b) : i.list = .zpRmw := by
  revert b h; cases i <;> decide

/-- On the ZP_RMW list the effective address is the operand's, in page 0, and the instruction takes five cycles. -/
theorem exec_rmw_zp (h : s.Ready) (hl : i.list = .zpRmw) {m : Mnemonic} (hm : i.mnemonic = m) (hrmw : rmwMnemonic m = true) :
    ∃ t, exec i s = .next t ∧ s.Stored t (zpAddr s.operand1) (modified m s.regs (s.peek (zpAddr s.operand1))) ∧
      s.Ran t { s.regs with pc := s.nextPc i, p := modifiedStatus m s.regs (s.peek (zpAddr s.operand1)) } 5 := by
  obtain ⟨a, t, ha, ht, hstored, hran⟩ := exec_rmw_byte h (by rw [hl]; decide) hm hrmw
  obtain rfl : zpAddr s.operand1 = a := by rw [hl] at ha; exact Option.some.inj ha
  have hbase : baseCycles i = 5 := by rw [baseCycles, hl]; rfl
  rw [hbase] at hran
  exact ⟨t, ht, hstored, hran⟩

/-- Settles O36: the stored byte is the old one with bit `b` replaced, and the status is the old one. -/
theorem rmbAndSmbChangeOneBit : Obligations.RmbAndSmbChangeOneBit := by
  refine ⟨by unfold Encodings; decide, fun i s b h hbit => ?_⟩
  have hl := list_of_rmb_smb hbit
  rcases hbit with hm | hm
  · obtain ⟨t, ht, hstored, hran⟩ := exec_rmw_zp h hl hm rfl
    refine ⟨t, _, ht, hstored, hran, fun k _ => ?_⟩
    simp [hm, modified, getLsbD_clearBit]
  · obtain ⟨t, ht, hstored, hran⟩ := exec_rmw_zp h hl hm rfl
    refine ⟨t, _, ht, hstored, hran, fun k _ => ?_⟩
    simp [hm, modified, getLsbD_setBit]

end Sys2Proof.Machine
end

section
/-!
PROOFS of the statements about branches, jumps, subroutines and BRK. A branch has a condition and no deferred effect (`exec_branch_to`); the
others end with the two bytes of the next address, the last of which commits PC (`exec_goes`), but for RTS, whose deferred effect goes one
past the pulled address.
-/

namespace Sys2Proof.Machine

variable {s : State} {i : Instr}

/-! ### Branches (spec R290 to R301) -/

/-- Where the list of a branch leaves PC at the next instruction and the offset `v` on DATA, the branch goes to its target where its
condition holds, and stays there where it does not. -/
theorem exec_branch_to (h : s.Ready) (hl : i.list = .rel ∨ i.list = .zpRel) {l : Latches} {v : Byte}
    (hrun : (s.present i).view.run (.instr i) =
      ⟨{ s.regs with pc := s.nextPc i }, l, doneEng i .data .read 0 (s.eng.cycles + (baseCycles i - 1)), s.devices, v⟩)
    {taken : Bool} (hb : ∀ st : State, st.regs.p = s.regs.p → st.latch.bd = l.bd → branchCondition i.mnemonic st = some taken) :
    ∃ t, exec i s = .next t ∧ s.Kept t ∧
      s.Ran t { s.regs with pc := if taken then branchTarget (s.nextPc i) v else s.nextPc i }
        (baseCycles i + branchExtra taken (s.nextPc i) (branchTarget (s.nextPc i) v)) := by
  have hplain : plainList i.list = true := by rcases hl with hl | hl <;> rw [hl] <;> rfl
  have hwai : i ≠ .wai := mnemonic_eq_wai (by rcases hl with hl | hl <;> rw [hl] <;> decide)
  obtain ⟨t, ht, hran, hdevices, -⟩ :=
    exec_branch h hplain hrun hb (fun c => (branch_of_list hl c).2) h.masked (fun hi => absurd hi hwai)
  exact ⟨t, ht, kept_of_devices h.solid hdevices, hran⟩

/-- The flag that bits 7 and 6 of the opcode of a conditional branch name (spec R290). -/
def testedFlag (i : Instr) : Nat :=
  if i.opcode.getLsbD 7 then (if i.opcode.getLsbD 6 then bitZ else bitC) else (if i.opcode.getLsbD 6 then bitV else bitN)

/-- The condition of a branch on the REL list: BRA's always holds, another's where the flag it tests equals bit 5 of its opcode. -/
theorem branchCondition_of_rel (hl : i.list = .rel) (st : State) : branchCondition i.mnemonic st =
    some (decide (i = .bra) || (flag (testedFlag i) st.regs.p == i.opcode.getLsbD 5)) := by
  cases i
  case bpl | bvc | bcc | bne => exact congrArg some (beq_false _).symm
  case bmi | bvs | bcs | beq => exact congrArg some (beq_true _).symm
  case bra => rfl
  all_goals exact absurd hl (by decide)

/-- Settles O37: the condition reads the flag that the opcode names. -/
theorem branchesGoToTheirTarget : Obligations.BranchesGoToTheirTarget := by
  refine ⟨by unfold Encodings; decide, fun i s taken h hl htaken => ?_⟩
  obtain ⟨l, hrun⟩ := run_rel h hl
  have hbase : baseCycles i = 2 := by rw [baseCycles, hl]; rfl
  rw [← hbase, htaken]
  exact exec_branch_to h (.inl hl) hrun fun st hp _ => hp ▸ branchCondition_of_rel hl st

theorem list_of_bbr_bbs {b : Fin 8} (h : i.mnemonic = .bbr b ∨ i.mnemonic = .bbs b) : i.list = .zpRel := by
  revert b h; cases i <;> decide

/-- BBRb and BBSb are taken where the bit that their internal operation has latched says so. -/
theorem exec_zpRel (h : s.Ready) {b : Fin 8} (hm : i.mnemonic = .bbr b ∨ i.mnemonic = .bbs b) {taken : Bool}
    (htaken : taken = bitTaken i.mnemonic (s.peek (zpAddr s.operand1))) :
    ∃ t, exec i s = .next t ∧ s.Kept t ∧
      s.Ran t { s.regs with pc := if taken then branchTarget (s.nextPc i) s.operand2 else s.nextPc i }
        (5 + branchExtra taken (s.nextPc i) (branchTarget (s.nextPc i) s.operand2)) := by
  have hl := list_of_bbr_bbs hm
  obtain ⟨l, hbd, hrun⟩ := run_zpRel h hl ⟨b, hm⟩
  have hbase : baseCycles i = 5 := by rw [baseCycles, hl]; rfl
  rw [← hbase]
  refine exec_branch_to h (.inr hl) hrun fun st _ hst => ?_
  rw [htaken, ← hbd, ← hst]
  rcases hm with hm | hm <;> rw [hm] <;> rfl

/-- Settles O38: BBRb latches the complement of bit `b` of the zero-page byte, BBSb the bit. -/
theorem bitBranchesTestTheZeroPage : Obligations.BitBranchesTestTheZeroPage := by
  refine ⟨by unfold Encodings; decide, fun i s b taken h hbit => ?_⟩
  rcases hbit with ⟨hm, htaken⟩ | ⟨hm, htaken⟩
  · exact exec_zpRel h (.inl hm) (by rw [hm, htaken]; rfl)
  · exact exec_zpRel h (.inr hm) (by rw [hm, htaken]; rfl)

/-! ### Jumps (spec R302 to R304) -/

/-- An instruction whose list ends with the high byte of the next address goes there: that byte commits PC (spec R35, R166). -/
theorem exec_goes (h : s.Ready) (hl : ordinaryList i.list = true) (he : ∀ c, effect i.mnemonic i.list c = c)
    {r : Regs} {l : Latches} {ds : List Device} {v : Byte}
    (hrun : (s.present i).view.run (.instr i) = ⟨r, l, doneEng i .npch .read 0 (s.eng.cycles + (baseCycles i - 1)), ds, v⟩)
    {target : Word} (htarget : join v l.npcl = target) :
    ∃ t, exec i s = .next t ∧ t.devices = ds ∧ s.Ran t { r with pc := target } (baseCycles i) := by
  simp only [ordinaryList, Bool.and_eq_true, bne_iff_ne] at hl
  obtain ⟨⟨⟨hplain, hrel⟩, hzp⟩, hwai⟩ := hl
  obtain ⟨c, t, hregs, -, hextra, -, ht, hran, hdevices, -⟩ := exec_plain h hplain (noBranch_of_list hrel hzp) hrun (Nat.zero_le _)
    (.inl rfl) (.inr (.inr ⟨he, rfl⟩)) (fun hi => absurd hi (mnemonic_eq_wai hwai))
  rw [he, hregs, hextra] at hran
  subst htarget
  exact ⟨t, ht, hdevices, hran⟩

/-- Settles O39: the last two bytes each list reads are the operand, or the word at the pointer. -/
theorem jumpsGoToTheirTarget : Obligations.JumpsGoToTheirTarget := by
  refine ⟨by unfold Encodings; decide, fun s h => ⟨?abs, ?ind, ?indX⟩⟩
  case abs =>
    obtain ⟨_, _, _, rfl, htarget, hrun⟩ := run_jmpAbs (i := .jmpAbs) h rfl
    obtain ⟨t, ht, hdevices, hran⟩ := exec_goes h rfl (fun _ => rfl) hrun htarget
    exact ⟨t, ht, kept_of_devices h.solid hdevices, hran⟩
  case ind =>
    obtain ⟨_, _, _, rfl, htarget, hrun⟩ := run_jmpInd (i := .jmpInd) h rfl
    obtain ⟨t, ht, hdevices, hran⟩ := exec_goes h rfl (fun _ => rfl) hrun htarget
    exact ⟨t, ht, kept_of_devices h.solid hdevices, hran⟩
  case indX =>
    obtain ⟨_, _, _, rfl, htarget, hrun⟩ := run_jmpIax (i := .jmpIndX) h rfl
    obtain ⟨t, ht, hdevices, hran⟩ := exec_goes h rfl (fun _ => rfl) hrun htarget
    exact ⟨t, ht, kept_of_devices h.solid hdevices, hran⟩

/-! ### Subroutines (spec R305, R306) -/

/-- Settles O40: the high byte of the operand is read from the devices as the pushes have left them. -/
theorem jsrPushesItsLastAddress : Obligations.JsrPushesItsLastAddress := by
  refine ⟨by unfold Encodings; decide, fun s h => ?_⟩
  obtain ⟨_, _, _, rfl, htarget, hrun⟩ := run_jsr (i := .jsr) h rfl
  obtain ⟨t, ht, hdevices, hran⟩ := exec_goes h rfl (fun _ => rfl) hrun htarget
  rw [← hdevices, ← peek_solid hran.settled.solid] at hran
  exact ⟨t, ht, pushed2_of_devices h.solid hdevices, hran⟩

/-- Settles O41: the list leaves PC at the pulled address, and the deferred effect goes one past it. -/
theorem rtsGoesPastThePulledAddress : Obligations.RtsGoesPastThePulledAddress := by
  refine ⟨by unfold Encodings; decide, fun s h => ?_⟩
  obtain ⟨_, _, hrun⟩ := run_rts (i := .rts) h rfl
  obtain ⟨c, t, hregs, -, hextra, -, ht, hran, hdevices, -⟩ := exec_plain (i := .rts) h rfl (fun _ => rfl) hrun (Nat.zero_le _) (.inl rfl)
    (h.masked.imp_right .inl) nofun
  have heffect : (effect Instr.rts.mnemonic Instr.rts.list c).regs = { c.regs with pc := c.regs.pc + 1#16 } := rfl
  rw [heffect, hregs, show (effect Instr.rts.mnemonic Instr.rts.list c).eng.extra = 0 from hextra] at hran
  exact ⟨t, ht, kept_of_devices h.solid hdevices, hran⟩

/-! ### RTI and BRK (spec R307, R308, R374 to R380) -/

theorem stackWord_above (s : State) (sp : Byte) :
    s.stackWord (sp + 1#8) = join (s.peek (stackAddr (sp + 3#8))) (s.peek (stackAddr (sp + 2#8))) := by
  rw [State.stackWord, BitVec.add_assoc, BitVec.add_assoc]
  rfl

/-- Settles O42: the list pulls P before the address. -/
theorem rtiRestoresStatusAndPc : Obligations.RtiRestoresStatusAndPc := by
  refine ⟨by unfold Encodings; decide, fun s h => ?_⟩
  obtain ⟨_, _, _, rfl, htarget, hrun⟩ := run_rti (i := .rti) h rfl
  obtain ⟨t, ht, hdevices, hran⟩ := exec_goes h rfl (fun _ => rfl) hrun (htarget.trans (stackWord_above s s.regs.s))
  exact ⟨t, ht, kept_of_devices h.solid hdevices, hran⟩

/-- Settles O43: the vector is outside the stack page, so the pushes leave it as it was. -/
theorem brkEntersThroughItsVector : Obligations.BrkEntersThroughItsVector := by
  refine ⟨by unfold Encodings; decide, fun s h => ?_⟩
  obtain ⟨_, _, _, rfl, htarget, hrun⟩ := run_brk (i := .brk) h rfl
  rw [readAll_pushed3 _ _ _ _ _ (by decide), readAll_pushed3 _ _ _ _ _ (by decide), ← peek_solid h.solid, ← peek_solid h.solid] at htarget
  obtain ⟨t, ht, hdevices, hran⟩ := exec_goes h rfl (fun _ => rfl) hrun htarget
  exact ⟨t, ht, pushed3_of_devices h.solid hdevices, hran⟩

end Sys2Proof.Machine
end

section
/-!
PROOFS of the statements about the stack, the flags, the no-ops, WAI and STP. On a list of several cycles each instruction is what its list
leaves and then its deferred effect, a function of the byte captured and of the registers (`exec_list_acts`).
-/

namespace Sys2Proof.Machine

variable {s : State} {i : Instr}

/-- An instruction that is no branch, and whose deferred effect acts on the registers alone: the effect runs after the last byte of the list
has been captured (spec R166, R170). -/
theorem exec_list_acts (h : s.Ready) (hl : ordinaryList i.list = true) {r : Regs} {l : Latches} {tag : DataTag} {rw : Direction}
    {ds : List Device} {v : Byte}
    (hrun : (s.present i).view.run (.instr i) = ⟨r, l, doneEng i tag rw 0 (s.eng.cycles + (baseCycles i - 1)), ds, v⟩)
    (hp : r.p = s.regs.p) {f : Byte → Regs → Regs} (hf : ActsBy i.mnemonic i.list f) :
    ∃ t, exec i s = .next t ∧ t.devices = ds ∧ s.Ran t (f (capLatch tag rw v l).d (capRegs tag rw v l r)) (baseCycles i) := by
  simp only [ordinaryList, Bool.and_eq_true, bne_iff_ne] at hl
  obtain ⟨⟨⟨hplain, hrel⟩, hzp⟩, hwai⟩ := hl
  obtain ⟨c, t, hregs, hlatch, hextra, -, ht, hran, hdevices, -⟩ := exec_plain h hplain (noBranch_of_list hrel hzp) hrun (Nat.zero_le _)
    (.inl rfl) (h.masked.imp_right fun hm => .inl (hp ▸ hm)) (fun hi => absurd hi (mnemonic_eq_wai hwai))
  obtain ⟨hfregs, hfextra⟩ := hf c
  rw [hfregs, hfextra, hregs, hlatch, hextra] at hran
  exact ⟨t, ht, hdevices, hran⟩

/-! ### Pushes and pulls (spec R330 to R337) -/

/-- PHA, PHX and PHY store their register, and have no deferred effect. -/
theorem exec_push (h : s.Ready) (hl : i.list = .push) (hm : i.mnemonic = .pha ∨ i.mnemonic = .phx ∨ i.mnemonic = .phy) :
    ∃ t, exec i s = .next t ∧ s.Stored t (stackAddr s.regs.s) (storedByte i.mnemonic s.regs) ∧
      s.Ran t { s.regs with s := s.regs.s - 1#8 } 3 := by
  obtain ⟨_, hrun⟩ := run_push h hl hm
  have hacts : ActsBy i.mnemonic i.list fun _ r => r := fun c => by rcases hm with hm | hm | hm <;> rw [hm] <;> exact ⟨rfl, rfl⟩
  obtain ⟨t, ht, hdevices, hran⟩ := exec_list_acts h (by rw [hl]; rfl) hrun rfl hacts
  have hbase : baseCycles i = 3 := by rw [baseCycles, hl]; rfl
  exact ⟨t, ht, stored_of_takeAll h.solid hdevices, hbase ▸ hran⟩

/-- PHP stores the status byte with bits 5 and 4 set (spec R28, R333). -/
theorem exec_php (h : s.Ready) : ∃ t, exec .php s = .next t ∧ s.Stored t (stackAddr s.regs.s) (pushedByInstr s.regs.p) ∧
    s.Ran t { s.regs with s := s.regs.s - 1#8 } 3 := by
  obtain ⟨_, hrun⟩ := run_php (i := .php) h rfl
  obtain ⟨t, ht, hdevices, hran⟩ := exec_list_acts h rfl hrun rfl (f := fun _ r => r) fun _ => ⟨rfl, rfl⟩
  exact ⟨t, ht, stored_of_takeAll h.solid hdevices, hran⟩

/-- Settles O44: the list of each ends with the write of its byte. -/
theorem pushesStoreOnTheStack : Obligations.PushesStoreOnTheStack := by
  refine ⟨by unfold Encodings; decide, fun s h i v hpush => ?_⟩
  rcases hpush with ⟨rfl, rfl⟩ | ⟨rfl, rfl⟩ | ⟨rfl, rfl⟩ | ⟨rfl, rfl⟩
  · exact exec_push h rfl (.inl rfl)
  · exact exec_push h rfl (.inr (.inl rfl))
  · exact exec_push h rfl (.inr (.inr rfl))
  · exact exec_php h

/-- PLA, PLX and PLY: the effect acts on the pulled byte, with S one up. -/
theorem exec_pull_acts (h : s.Ready) (hl : i.list = .pull) {f : Byte → Regs → Regs} (hf : ActsBy i.mnemonic i.list f) :
    ∃ t, exec i s = .next t ∧ s.Kept t ∧
      s.Ran t (f (s.peek (stackAddr (s.regs.s + 1#8))) { s.regs with s := s.regs.s + 1#8 }) 4 := by
  obtain ⟨_, hrun⟩ := run_pull h hl
  obtain ⟨t, ht, hdevices, hran⟩ := exec_list_acts h (by rw [hl]; rfl) hrun rfl hf
  have hbase : baseCycles i = 4 := by rw [baseCycles, hl]; rfl
  exact ⟨t, ht, kept_of_devices h.solid hdevices, hbase ▸ hran⟩

/-- Settles O45: PLP has no deferred effect, because the capture of its last byte is what writes P. -/
theorem pullsReadFromTheStack : Obligations.PullsReadFromTheStack := by
  refine ⟨by unfold Encodings; decide, fun s h => ⟨?pla, ?plx, ?ply, ?plp⟩⟩
  case pla => exact exec_pull_acts h rfl (f := fun v r => r.putA v) fun c => ⟨c.putA_regs _, rfl⟩
  case plx => exact exec_pull_acts h rfl (f := fun v r => r.putX v) fun c => ⟨c.putX_regs _, rfl⟩
  case ply => exact exec_pull_acts h rfl (f := fun v r => r.putY v) fun c => ⟨c.putY_regs _, rfl⟩
  case plp =>
    obtain ⟨_, hrun⟩ := run_plp (i := .plp) h rfl
    obtain ⟨t, ht, hdevices, hran⟩ := exec_list_acts h rfl hrun rfl (f := fun _ r => r) fun _ => ⟨rfl, rfl⟩
    exact ⟨t, ht, kept_of_devices h.solid hdevices, hran⟩

/-! ### Flags (spec R338 to R344) -/

/-- An instruction with no operand whose effect writes flag `k` leaves the other seven bits of P. -/
theorem exec_setFlag (h : s.Ready) (hl : i.list = .imp) {k : Nat} (hk : k < 8) {b : Bool}
    (hf : ActsBy i.mnemonic i.list fun _ r => { r with p := setFlag k b r.p }) :
    ∃ t p, exec i s = .next t ∧ s.Kept t ∧ s.Ran t { s.regs with p := p } 2 ∧
      ∀ j, j < 8 → p.getLsbD j = if j = k then b else s.regs.p.getLsbD j := by
  obtain ⟨t, ht, hkept, hran⟩ := exec_imp_acts h hl hf
  exact ⟨t, _, ht, hkept, hran, fun j _ => getLsbD_setFlag hk j b s.regs.p⟩

/-- Settles O46: the deferred effect of each writes its own flag. -/
theorem flagInstructionsSetTheirFlag : Obligations.FlagInstructionsSetTheirFlag := by
  refine ⟨by unfold Encodings; decide, fun s h i k b hflag => ?_⟩
  rcases hflag with ⟨rfl, rfl, rfl⟩ | ⟨rfl, rfl, rfl⟩ | ⟨rfl, rfl, rfl⟩ | ⟨rfl, rfl, rfl⟩ | ⟨rfl, rfl, rfl⟩ | ⟨rfl, rfl, rfl⟩ |
    ⟨rfl, rfl, rfl⟩
  all_goals exact exec_setFlag h rfl (by decide) fun _ => ⟨rfl, rfl⟩

/-! ### No-ops (spec R345, R346) -/

theorem list_of_noOp (hm : i.mnemonic = .nop ∨ i.mnemonic = .undefinedNop) : idleList i.list = true ∨ i.list = .nop1 := by
  revert hm; cases i <;> decide

/-- Settles O47: no no-op has a deferred effect, and its list reads bytes that it drops, or is the opcode fetch alone. -/
theorem noOpsOnlyAdvance : Obligations.NoOpsOnlyAdvance := by
  refine ⟨by unfold Encodings; decide, fun i s h hm => ?_⟩
  have he : ∀ c, effect i.mnemonic i.list c = c := fun c => by rcases hm with hm | hm <;> rw [hm] <;> rfl
  have hb : NoBranch (.instr i) := fun st => by rcases hm with hm | hm <;> rw [hm] <;> rfl
  rcases list_of_noOp hm with hl | hl
  · obtain ⟨c, t, hregs, hextra, -, ht, hran, hkept⟩ := exec_idle h hl hb
    rw [he, hregs, hextra] at hran
    exact ⟨t, ht, hkept, hran⟩
  · obtain ⟨t, ht, hran, hdevices, -⟩ := exec_oneCycle h hl he
    have hbase : baseCycles i = 1 := by rw [baseCycles, hl]; rfl
    have hpc : s.nextPc i = s.regs.pc := by rw [State.nextPc, Instr.operandCount, hl]; exact BitVec.add_zero _
    rw [hbase, hpc]
    exact ⟨t, ht, kept_of_devices h.solid hdevices, hran⟩

/-! ### WAI and STP (spec R347, R348) -/

/-- Where nothing makes it wait or stops the model, WAI is a three-cycle no-op. -/
theorem exec_wai_passes (h : s.Ready) (hw : Passes ⟨s.waiSemantics, s.bp.irqb.level⟩) :
    ∃ t, exec .wai s = .next t ∧ s.Kept t ∧ s.Ran t s.regs 3 := by
  obtain ⟨_, _, hrun⟩ := run_wai (i := .wai) h rfl rfl
  obtain ⟨c, t, hregs, -, hextra, -, ht, hran, hdevices, -⟩ := exec_plain h rfl (fun _ => rfl) hrun (Nat.zero_le _) (.inl rfl)
    (h.masked.imp_right .inl) fun _ => hw
  have he : effect Instr.wai.mnemonic Instr.wai.list c = c := rfl
  rw [he, hregs, hextra] at hran
  exact ⟨t, ht, kept_of_devices h.solid hdevices, hran⟩

/-- Settles O48: WAI passes, waits or stops the model, by the parameter and IRQB; once it waits, by IRQB alone. -/
theorem waiFollowsItsParameter : Obligations.WaiFollowsItsParameter := by
  refine ⟨by unfold Encodings; decide, fun s h => ⟨?nop, ?asserted, ?waits, exec_wai_refuse h⟩, fun s h => ⟨?stays, ?wakes⟩⟩
  case nop => exact fun hw => exec_wai_passes h (.inl hw)
  case asserted => exact fun hw hirq => exec_wai_passes h (.inr ⟨hw, hirq⟩)
  case waits =>
    intro hw hirq
    obtain ⟨t, ht, hregs, hwaiting, hcycles, hirq', hdevices, -⟩ := exec_wai_waits h hw hirq
    exact ⟨t, ht, kept_of_devices h.solid hdevices, hregs, hwaiting, hirq', hcycles⟩
  case stays =>
    intro hirq
    obtain ⟨t, ht, hregs, hwaiting, hcycles, hirq', hdevices, -⟩ := step_waits h hirq
    exact ⟨t, ht, kept_of_devices h.solid hdevices, hregs, hwaiting, hirq', hcycles⟩
  case wakes =>
    intro hirq
    obtain ⟨t, ht, hran, hdevices, -⟩ := step_wakes h hirq
    exact ⟨t, ht, kept_of_devices h.solid hdevices, hran⟩

/-- Settles O49: the HALT cycle stops the engine. -/
theorem stpStopsTheCpu : Obligations.StpStopsTheCpu := by
  refine ⟨by unfold Encodings; decide, fun s h => ?_⟩
  obtain ⟨t, ht, hregs, heng, hdevices, -⟩ := exec_stp h
  refine ⟨t, ht, kept_of_devices h.solid hdevices, hregs, ?_⟩
  rw [heng]
  exact ⟨rfl, rfl, rfl, rfl, rfl⟩

end Sys2Proof.Machine
end
